-- ==== Sys2Proof/Word.lean ====
section
/-! DEFINITION. The machine's word types (spec rule R6) and their plainest names. -/

namespace Sys2Proof

/-- A register, a command word, a histogram counter: 32 bits (R6 REG_DATA_W, CMD_W, CNT_W). -/
abbrev Word := BitVec 32

/-- One stream byte, one symbol: 8 bits (R6 PORT_W, NSYM). -/
abbrev Byte := BitVec 8

/-- A node weight, TOTAL, BUDGET: 40 bits unsigned (R6 WEIGHT_W). -/
abbrev Weight := BitVec 40

/-- A node index 0..510 (R6 MAX_NODES, R31); the absent node NONE is `Option.none`. -/
abbrev NodeIx := Fin 511

/-- A register-port address: only addr[15:2] of the 16-bit byte address is carried (R60), so a
misaligned access cannot be written down (R61). -/
abbrev RegAddr := BitVec 14

end Sys2Proof
end

