-- ==== Sys2Proof/Config.lean ====
section
/-! DEFINITION. What this hardware fixes (R6, R23) and the one value the spec leaves free (R65). -/

namespace Sys2Proof.Config

/-- The ID register's constant, ASCII "HUF1" (R2, R23). -/
def idValue : Word := 0x48554631#32

/-- NSYM: symbols 0..255 (R6). -/
def nSym : Nat := 256

/-- MAX_NODES: node slots of the NODE array (R6). -/
def maxNodes : Nat := 511

/-- Bytes of the frequency table, 256 counters of 4 bytes (R70). -/
def tableBytes : Nat := 1024

/-- FREE VALUE (log entry 5). The value of the `n`-th register read made while BUSY = 1 at an address
other than ID, CTRL and STATUS: "an unspecified 32-bit value, and a model draws it freely" (R65, 93 U6).
It has no body: nothing can be proved of any value of it. -/
opaque freeRead : Nat → Word

end Sys2Proof.Config
end

