-- ==== Sys2Proof/Syntax.lean ====
section
/-! DEFINITION. The command set: one constructor per row of the opcode map (R94), its fields those of the
row's operand form (R92). -/

namespace Sys2Proof

/-- The 18 commands of R94. A field has the width its operand form gives it; which values are legal is
`Instr.wf`. -/
inductive Instr where
  /-- 0x00, form Z (R200): do nothing. -/
  | nop
  /-- 0x01, form Z (R110): clear the histogram. -/
  | hclr
  /-- 0x02, form Z (R112): count one input stream into the histogram. -/
  | hcnt
  /-- 0x03, form Z (R113): write the 1024-byte frequency table. -/
  | frqout
  /-- 0x04, form Z (R114): read the 1024-byte frequency table. -/
  | frqin
  /-- 0x10, form Z (R140): build the tree. -/
  | build
  /-- 0x11, form Z (R141): generate the code table. -/
  | gencodes
  /-- 0x20, form BIT (R153): write one bit; VAL = OPD[7:0]. -/
  | bwbit (val : BitVec 8)
  /-- 0x21, form CODE (R154): write LEN = OPD[20:16] bits of BITS = OPD[15:0]. -/
  | bwcode (len : BitVec 5) (bits : BitVec 16)
  /-- 0x22, form Z (R155): finalize the BitWriter. -/
  | bwclose
  /-- 0x23, form SYM (R156): encode the symbol SYM = OPD[7:0]. -/
  | encb (sym : BitVec 8)
  /-- 0x24, form Z (R157): encode one input stream. -/
  | enc
  /-- 0x30, form Z (R180): construct a BitReader. -/
  | bropen
  /-- 0x31, form Z (R181): read one bit. -/
  | brbit
  /-- 0x32, form Z (R182): count one symbol against the budget. -/
  | brsym
  /-- 0x33, form Z (R183): decode one symbol. -/
  | decsym
  /-- 0x34, form Z (R184): decode the whole body. -/
  | dec
  /-- 0x35, form Z (R185): discard input up to END. -/
  | iskip
deriving DecidableEq, Repr

end Sys2Proof
end

