-- ==== Sys2Proof/WellFormed.lean ====
section
/-! DEFINITION. Which commands are well formed: the operand constraints of R92 that are about a field's
value. The constraints about reserved bits (OPD = 0, OPD[23:8] = 0, OPD[23:21] = 0) have no field in the
term; the decoder checks them on the word. -/

namespace Sys2Proof

/-- The value constraints of R92: BIT asks VAL ∈ {0, 1}; CODE asks LEN ≤ 16 and BITS < 2^LEN; Z and SYM
ask nothing of the fields they keep. -/
def Instr.wf : Instr → Bool
  | .bwbit val => val == 0#8 || val == 1#8
  | .bwcode len bits => decide (len.toNat ≤ 16) && decide (bits.toNat < 2 ^ len.toNat)
  | .nop | .hclr | .hcnt | .frqout | .frqin | .build | .gencodes | .bwclose | .encb _ | .enc
  | .bropen | .brbit | .brsym | .decsym | .dec | .iskip => true

end Sys2Proof
end

