-- ==== Sys2Proof/Decode.lean ====
section
/-! DEFINITION. The command decoder (R90 to R95), total on every 32-bit word and refusing by the name of
the error the spec raises, and after it the encoder, written from the same rows of the opcode map. -/

namespace Sys2Proof

/-- Why a word is no command: the first two checks of R214. -/
inductive DecodeError where
  /-- OPC has no row in the opcode map (R95): the core raises ILLEGAL_CMD. -/
  | illegalCmd
  /-- OPD violates the command's operand form (R92): the core raises BAD_OPERAND. -/
  | badOperand
deriving DecidableEq, Repr

/-- OPC = w[31:24] (R91). -/
def opcOf (w : Word) : BitVec 8 := w.extractLsb' 24 8

/-- OPD = w[23:0] (R91). -/
def opdOf (w : Word) : BitVec 24 := w.extractLsb' 0 24

/-- Accepts `i` when its fields' values are legal and the word's reserved operand bits are zero. -/
def acceptOperand (reservedZero : Bool) (i : Instr) : Except DecodeError Instr :=
  if reservedZero && i.wf then .ok i else .error .badOperand

/-- Form Z: OPD = 0 (R92). -/
def formZ (opd : BitVec 24) (i : Instr) : Except DecodeError Instr :=
  acceptOperand (opd == 0#24) i

/-- Form BIT: VAL = OPD[7:0], OPD[23:8] = 0 and VAL ∈ {0, 1} (R92). -/
def formBit (opd : BitVec 24) : Except DecodeError Instr :=
  acceptOperand (opd.extractLsb' 8 16 == 0#16) (.bwbit (opd.extractLsb' 0 8))

/-- Form CODE: LEN = OPD[20:16], BITS = OPD[15:0], OPD[23:21] = 0, LEN ≤ 16 and BITS < 2^LEN (R92). -/
def formCode (opd : BitVec 24) : Except DecodeError Instr :=
  acceptOperand (opd.extractLsb' 21 3 == 0#3) (.bwcode (opd.extractLsb' 16 5) (opd.extractLsb' 0 16))

/-- Form SYM: SYM = OPD[7:0], OPD[23:8] = 0 (R92). -/
def formSym (opd : BitVec 24) : Except DecodeError Instr :=
  acceptOperand (opd.extractLsb' 8 16 == 0#16) (.encb (opd.extractLsb' 0 8))

/-- The opcode map of R94, by OPC; every OPC with no row is illegal (R95). -/
def decodeOpc (opc : BitVec 8) (opd : BitVec 24) : Except DecodeError Instr :=
  if opc = 0x00#8 then formZ opd .nop
  else if opc = 0x01#8 then formZ opd .hclr
  else if opc = 0x02#8 then formZ opd .hcnt
  else if opc = 0x03#8 then formZ opd .frqout
  else if opc = 0x04#8 then formZ opd .frqin
  else if opc = 0x10#8 then formZ opd .build
  else if opc = 0x11#8 then formZ opd .gencodes
  else if opc = 0x20#8 then formBit opd
  else if opc = 0x21#8 then formCode opd
  else if opc = 0x22#8 then formZ opd .bwclose
  else if opc = 0x23#8 then formSym opd
  else if opc = 0x24#8 then formZ opd .enc
  else if opc = 0x30#8 then formZ opd .bropen
  else if opc = 0x31#8 then formZ opd .brbit
  else if opc = 0x32#8 then formZ opd .brsym
  else if opc = 0x33#8 then formZ opd .decsym
  else if opc = 0x34#8 then formZ opd .dec
  else if opc = 0x35#8 then formZ opd .iskip
  else .error .illegalCmd

/-- The decoder of R90: split the word, look OPC up, check the operand form. -/
def decode (w : Word) : Except DecodeError Instr := decodeOpc (opcOf w) (opdOf w)

/-- The OPC of each row of R94. -/
def Instr.opc : Instr → BitVec 8
  | .nop => 0x00#8
  | .hclr => 0x01#8
  | .hcnt => 0x02#8
  | .frqout => 0x03#8
  | .frqin => 0x04#8
  | .build => 0x10#8
  | .gencodes => 0x11#8
  | .bwbit _ => 0x20#8
  | .bwcode _ _ => 0x21#8
  | .bwclose => 0x22#8
  | .encb _ => 0x23#8
  | .enc => 0x24#8
  | .bropen => 0x30#8
  | .brbit => 0x31#8
  | .brsym => 0x32#8
  | .decsym => 0x33#8
  | .dec => 0x34#8
  | .iskip => 0x35#8

/-- The OPD of a command: its fields at their places, every other bit zero (R92). -/
def Instr.opd : Instr → BitVec 24
  | .bwbit val => val.setWidth 24
  | .bwcode len bits => (len.setWidth 24 <<< 16) ||| bits.setWidth 24
  | .encb sym => sym.setWidth 24
  | .nop | .hclr | .hcnt | .frqout | .frqin | .build | .gencodes | .bwclose | .enc
  | .bropen | .brbit | .brsym | .decsym | .dec | .iskip => 0#24

/-- The command word of an instruction: OPC above OPD (R91). -/
def encode (i : Instr) : Word := (i.opc.setWidth 32 <<< 24) ||| i.opd.setWidth 32

/-- The host's view of the decoder: bit 0 of `w` is bit 0 of the command word, and the bits above
`nbits` are zero. A command is one 32-bit register value with no byte order (R61, R91). -/
def decodeTableWord (nbits w : Nat) : Option Instr :=
  match decode (BitVec.ofNat 32 (w % 2 ^ nbits)) with
  | .ok i => some i
  | .error _ => none

end Sys2Proof
end

