-- ==== Sys2Proof/Machine/State.lean ====
section
/-! DEFINITION. The machine's state as plain data (10_state.md), the state after reset (R41), and the
reasons a step can stop. The fields whose docstring says MODEL are the model's own: the host and the
ports of R20, R66, R67, R77, and the place a waiting command is at (R37, R38). -/

namespace Sys2Proof.Machine

/-- The error codes the core can raise, with `none` for 0x00 (R211). Code 0x03 is reserved and never
raised (R211, 93 U15), so it has no constructor. -/
inductive ErrCode where
  | none
  | malformedHeader
  | corruptBody
  | underlyingIo
  | illegalCmd
  | badOperand
  | noTree
  | noCodes
  | notOpen
  | noCode
  | countOverflow
  | missingChild
  | budgetUnderflow
deriving DecidableEq, Repr

/-- One item of the input stream port: BYTE(b), END or IOERR (R66). -/
inductive InItem where
  | byte (b : Byte)
  | eos
  | ioerr
deriving DecidableEq, Repr

/-- The host's answer to one Push (R67). -/
inductive Answer where
  | ok
  | ioerr
deriving DecidableEq, Repr

/-- One slot of the NODE array (R31), as HC's tagged union: a LEAF has no children, an INTERNAL node has a
left child always and a right child unless it is the one-child node. -/
inductive Node where
  | leaf (sym : Byte) (weight : Weight)
  | internal (weight : Weight) (left : NodeIx) (right : Option NodeIx)
deriving DecidableEq, Repr

/-- What BUILD leaves: the NODE array (R31) and the tree summary registers (R33). -/
structure Tree where
  /-- NODE[0..510] (R31); only slots 0..NNODES - 1 are defined. -/
  node   : Vector Node 511
  /-- NDIST, bits [8:0] of 0x01C: the number of distinct symbols. -/
  ndist  : BitVec 9
  /-- NNODES, bits [9:0] of 0x020: the number of defined NODE slots. -/
  nnodes : BitVec 10
  /-- ROOT, 0x024: a node index, or NONE. -/
  root   : Option NodeIx
  /-- TOTAL, TOTAL_LO and TOTAL_HI: the 40-bit sum of HIST at the last BUILD. -/
  total  : Weight
deriving DecidableEq, Repr

/-- The fields of RESULT (R29); its other bits read 0. -/
structure Result where
  /-- VALUE, bits [7:0]. -/
  value : Byte
  /-- EXH, bit 8. -/
  exh   : Bool
  /-- VALID, bit 9. -/
  valid : Bool
deriving DecidableEq, Repr

/-- RESULT = 0 (R29). -/
def Result.zero : Result := { value := 0#8, exh := false, valid := false }

/-- The two commands that walk the tree (R183, R184). -/
inductive DecodeCmd where
  | decsym
  | dec
deriving DecidableEq, Repr

/-- MODEL (R37, R38; log entry 2). Where inside the execution of PENDING the core is: not yet begun, or
waiting in one Pull or Push, with what that command still needs to go on. "The only points where it can
wait are a Pull() or a Push()" (R37). -/
inductive Progress where
  /-- Accepted, nothing executed yet. Also the value while idle. -/
  | start
  /-- HCNT waits in its Pull (R112). -/
  | hcnt
  /-- FRQOUT waits in the Push of byte `k` of the table (R113). -/
  | frqout (k : Fin 1024)
  /-- FRQIN waits in the Pull of byte `k` of the table; `v` holds the bytes of the counter in hand (R114). -/
  | frqin (k : Fin 1024) (v : Word)
  /-- WriteBit waits in the Push of a completed byte; `rest` are the bits still to be written after it;
  `stream` is true inside ENC, which then pulls on (R150, R152, R157). -/
  | write (stream : Bool) (b : Byte) (rest : List Bool)
  /-- BWCLOSE waits in the Push of the padded byte (R151). -/
  | close (b : Byte)
  /-- ENC waits in its Pull (R157). -/
  | enc
  /-- BRBIT waits in ReadBit's Pull (R170). -/
  | brbit
  /-- The tree walk waits in ReadBit's Pull with its cursor at `cur` (R172). -/
  | walk (c : DecodeCmd) (cur : NodeIx)
  /-- The tree walk waits in the Push of the symbol of the leaf it reached (R172). -/
  | emit (c : DecodeCmd) (sym : Byte)
  /-- ISKIP waits in its Pull (R185). -/
  | iskip
deriving DecidableEq, Repr

/-- MODEL (R77; log entry 3). One thing the host can do. -/
inductive HostAction where
  /-- A register read (R60). -/
  | read (addr : RegAddr)
  /-- A register write (R60). -/
  | write (addr : RegAddr) (v : Word)
  /-- Presenting one item on the input port (R66). -/
  | present (it : InItem)
  /-- Answering one Push (R67): the one now on offer, or else the next one to come (log entry 4). -/
  | answer (a : Answer)
  /-- From now on the host answers every push itself, the `k`-th with IOERR and all others with OK (R97
  `SINKFAIL`); `k` = 0 answers every push OK (log entry 4). -/
  | sinkFail (k : Nat)
  /-- Reading STATUS until BUSY = 0 (R97 `WAIT`). -/
  | wait
  /-- Asserting `rst` (R240). -/
  | assertReset
  /-- Releasing `rst` (R240). -/
  | releaseReset
deriving DecidableEq, Repr

/-- MODEL (log entry 3). A host action and when it is made: an `eager` one before the core's next move
even where the core could move, any other one only when the core cannot move. -/
structure HostMove where
  act   : HostAction
  eager : Bool
deriving DecidableEq, Repr

/-- The reasons the machine could stop with a fault. There is none: every error of the spec is a defined
next state (R213), every register access completes (R60), and a command that waits for ever "is a hang,
not a fault" (R77). Safe: nothing is cut short. -/
inductive Fault where
deriving DecidableEq, Repr

/-- The reasons the machine could refuse. -/
inductive Refusal where
  /-- Raised by an arm of `exec` whose command has no meaning yet; no arm raises it. Safe. -/
  | notModelled (mnemonic : String)
deriving DecidableEq, Repr

/-- The whole state. -/
structure State where
  /-- The reset input `rst`, as the core samples it (R240). -/
  rst        : Bool
  /-- CTRL.IE (R24). -/
  ie         : Bool
  /-- STATUS.BUSY (R25). -/
  busy       : Bool
  /-- STATUS.DONE (R25). -/
  done       : Bool
  /-- STATUS.ERR (R25). -/
  err        : Bool
  /-- STATUS.REJ (R25). -/
  rej        : Bool
  /-- STATUS.TREE_VALID (R25). -/
  treeValid  : Bool
  /-- STATUS.CODES_VALID (R25). -/
  codesValid : Bool
  /-- STATUS.BR_OPEN (R25, R36). -/
  brOpen     : Bool
  /-- ERRCODE (R26). -/
  errcode    : ErrCode
  /-- ERRINFO (R27). -/
  errinfo    : Word
  /-- PENDING, the latched command word (R37). -/
  pending    : Option Word
  /-- MODEL: where inside PENDING the core is (R37, R38). -/
  progress   : Progress
  /-- RESULT (R29). -/
  result     : Result
  /-- HIST[0..255] (R30). -/
  hist       : Vector Word 256
  /-- NODE, NDIST, NNODES, ROOT, TOTAL (R31, R33). -/
  tree       : Tree
  /-- CODE[0..255] (R32): an entry's `len` is the length of its bit list, bits[0] first. -/
  code       : Vector (List Bool) 256
  /-- BUDGET (R34). -/
  budget     : Weight
  /-- BW_ACC (R35). -/
  bwAcc      : Byte
  /-- BW_NBITS, 0..7 (R35). -/
  bwNbits    : Fin 8
  /-- BR_BUF (R36). -/
  brBuf      : Byte
  /-- BR_NLEFT, 0..8 (R36). -/
  brNleft    : Fin 9
  /-- MODEL: the items presented and not yet pulled, oldest first (R66). -/
  input      : List InItem
  /-- MODEL: the host's answers to the pushes to come, the next one first (R67). -/
  answers    : List Answer
  /-- MODEL: the answer given to the push the core waits in, until the core goes on (R67). -/
  reply      : Option Answer
  /-- MODEL: with `some k`, the host answers each push on offer by itself, the `k`-th from here with IOERR and all
  others with OK (R97 `SINKFAIL`); with `none` only its moves answer. -/
  sink       : Option Nat
  /-- MODEL: the bytes delivered to the host, oldest first (R67). -/
  output     : List Byte
  /-- MODEL: what the host does next, oldest first (R77). -/
  host       : List HostMove
  /-- MODEL: the word the host's last register read returned (R60). -/
  readData   : Word
  /-- MODEL: how many free values have been drawn (R65, log entry 5). -/
  draws      : Nat
deriving DecidableEq, Repr

/-- Every undefined NODE slot's contents, which no read observes (R31, R41; log entry 6). -/
def Node.blank : Node := .leaf 0#8 0#40

/-- The tree part of the reset state (R41): NDIST, NNODES and TOTAL 0, ROOT = NONE. -/
def Tree.empty : Tree :=
  { node := Vector.replicate 511 Node.blank, ndist := 0#9, nnodes := 0#10, root := none, total := 0#40 }

/-- The machine right after reset (R41), `rst` released, with a silent host and empty ports (log entry 7). -/
def State.reset : State :=
  { rst := false, ie := false, busy := false, done := false, err := false, rej := false
    treeValid := false, codesValid := false, brOpen := false
    errcode := .none, errinfo := 0#32, pending := none, progress := .start
    result := Result.zero
    hist := Vector.replicate 256 0#32
    tree := Tree.empty
    code := Vector.replicate 256 []
    budget := 0#40, bwAcc := 0#8, bwNbits := 0, brBuf := 0#8, brNleft := 0
    input := [], answers := [], reply := none, sink := none, output := [], host := [], readData := 0#32, draws := 0 }

end Sys2Proof.Machine
end

