-- ==== Sys2Proof/Machine/Ops.lean ====
section
/-! DEFINITION. The operations every command shares: the register updates, Pull and Push (R66, R67), the
result of running a command's pseudocode, error entry (R213), error return (R216) and completion
(R215), and reset (R240 to R242). -/

namespace Sys2Proof.Machine

/-! ### Reading and writing one element of the arrays -/

/-- HIST[b] (R30). -/
def State.histAt (s : State) (b : Byte) : Word := s.hist[b.toNat]'b.isLt

/-- HIST[b] <- v (R30); the invalidation of R39 is the caller's. -/
def State.setHist (s : State) (b : Byte) (v : Word) : State :=
  { s with hist := s.hist.set b.toNat v b.isLt }

/-- CODE[b].bits (R32). -/
def State.codeAt (s : State) (b : Byte) : List Bool := s.code[b.toNat]'b.isLt

/-- NODE[j] (R31). -/
def Tree.nodeAt (t : Tree) (j : NodeIx) : Node := t.node[j.val]'j.isLt

/-- NODE[j].weight (R31). -/
def Node.weight : Node → Weight
  | .leaf _ w => w
  | .internal w _ _ => w

/-- NODE[j].left for bit 0, NODE[j].right for bit 1; NONE for a leaf (R31, R172). -/
def Node.child : Node → Bool → Option NodeIx
  | .leaf _ _, _ => none
  | .internal _ l _, false => some l
  | .internal _ _ r, true => r

/-! ### Register updates -/

/-- The input queue after items were presented or pulled (R66). -/
def State.setInput (s : State) (q : List InItem) : State := { s with input := q }

/-- One push answered: the answer is used up, and an OK delivers the byte (R67). -/
def State.deliver (s : State) (bs : List Byte) (rest : List Answer) : State :=
  { s with output := s.output ++ bs, answers := rest }

/-- The answer to the push on offer is given or taken (R67). -/
def State.setReply (s : State) (r : Option Answer) : State := { s with reply := r }

/-- Which of the pushes to come the host answers with IOERR (R97 `SINKFAIL`). -/
def State.setSink (s : State) (k : Option Nat) : State := { s with sink := k }

/-- BW_ACC and BW_NBITS (R35). -/
def State.setWriter (s : State) (acc : Byte) (n : Fin 8) : State :=
  { s with bwAcc := acc, bwNbits := n }

/-- BR_BUF and BR_NLEFT (R36). -/
def State.setReader (s : State) (buf : Byte) (n : Fin 9) : State :=
  { s with brBuf := buf, brNleft := n }

/-- BROPEN's three assignments, also made by DEC: an empty reader, and BR_OPEN (R180, R184). -/
def State.openReader (s : State) : State :=
  { s with brBuf := 0#8, brNleft := 0, brOpen := true }

/-- BUDGET (R34). -/
def State.setBudget (s : State) (v : Weight) : State := { s with budget := v }

/-- RESULT (R29). -/
def State.setResult (s : State) (r : Result) : State := { s with result := r }

/-- The invalidation of R39, made at the start of every change of HIST. -/
def State.invalidate (s : State) : State := { s with treeValid := false, codesValid := false }

/-- A refused or ignored host write: STATUS.REJ <- 1 (R28, R64). -/
def State.reject (s : State) : State := { s with rej := true }

/-! ### Running a command's pseudocode -/

/-- How a piece of pseudocode ends: it returns, it raises an error (R8 `raise Error`), or it waits in a
Pull or a Push the host has not served (R37). -/
inductive Run (α : Type) where
  | ok (a : α) (s : State)
  | raised (c : ErrCode) (info : Word) (s : State)
  | held (p : Progress) (s : State)
deriving DecidableEq, Repr

/-- `r`, then `k`: an error or a wait in `r` ends the whole (R8, R213). -/
def Run.andThen {α β : Type} (r : Run α) (k : α → State → Run β) : Run β :=
  match r with
  | .ok a s => k a s
  | .raised c info s => .raised c info s
  | .held p s => .held p s

/-- `Pull()` (R66): takes the next item; with none presented the command waits at `p`. -/
def pull (p : Progress) (s : State) : Run InItem :=
  match s.input with
  | [] => .held p s
  | it :: q => .ok it (s.setInput q)

/-- `Push(b)` (R67): OK delivers the byte, IOERR does not; unanswered, the command waits at `p`. -/
def push (p : Progress) (b : Byte) (s : State) : Run Answer :=
  match s.answers with
  | [] => .held p s
  | .ok :: rest => .ok .ok (s.deliver [b] rest)
  | .ioerr :: rest => .ok .ioerr (s.deliver [] rest)

/-- `if Push(b) = IOERR then raise Error(UNDERLYING_IO, 1)`, the form every push of the spec has (R113,
R150, R151, R172). -/
def pushByte (p : Progress) (b : Byte) (s : State) : Run Unit :=
  (push p b s).andThen fun a s =>
    match a with
    | .ok => .ok () s
    | .ioerr => .raised .underlyingIo 1#32 s

/-- Going on from the push the command waits in (R67): the answer given to it is taken; its byte was delivered
when it was answered. Still unanswered, the command waits on at `p`. -/
def takeReply (p : Progress) (s : State) : Run Unit :=
  match s.reply with
  | none => .held p s
  | some .ok => .ok () (s.setReply none)
  | some .ioerr => .raised .underlyingIo 1#32 (s.setReply none)

/-! ### The end of a command -/

/-- Completion (R215): BUSY <- 0 and DONE <- 1 at once, and PENDING is no longer held (R37). -/
def complete (s : State) : State :=
  { s with busy := false, done := true, pending := none, progress := .start }

/-- OPC ∈ {BRBIT, DECSYM, DEC}: the commands whose error clears RESULT (R213). -/
def clearsResult (opc : BitVec 8) : Bool := opc == 0x31#8 || opc == 0x33#8 || opc == 0x34#8

/-- ERROR ENTRY, the one exception of this machine (R213): `w` is the command word. RESULT <- 0 for the
three commands that write it; ERR, ERRCODE, ERRINFO; completion. Nothing is rolled back. -/
def errorEntry (w : Word) (c : ErrCode) (info : Word) (s : State) : State :=
  complete
    { s with
      result := if clearsResult (opcOf w) then Result.zero else s.result
      err := true, errcode := c, errinfo := info }

/-- ERROR RETURN (R216): writing 1 to STATUS.ERR clears ERR, ERRCODE and ERRINFO, and restores nothing. -/
def clearError (s : State) : State := { s with err := false, errcode := .none, errinfo := 0#32 }

/-- A waiting command: BUSY stays 1 and the place is kept (R37, R77). -/
def hold (p : Progress) (s : State) : State := { s with progress := p }

/-- The next state a command whose word is `w` leads to: completion, error entry, or a wait. -/
def finish (w : Word) : Run Unit → Host.Outcome State Fault Refusal
  | .ok _ s => .next (complete s)
  | .raised c info s => .next (errorEntry w c info s)
  | .held p s => .next (hold p s)

/-! ### Reset -/

/-- What reset does, hardware or soft (R240, R241): every element of R41's table at its reset value. The items
not yet pulled stay queued and the delivered bytes stay delivered; a push on offer is withdrawn, with the
answer given to it if any (R242). The level of `rst`, the host's plans, its answers to pushes to come and
its read data are not the core's to reset (log entry 12). -/
def hardReset (s : State) : State :=
  { State.reset with
    rst := s.rst, input := s.input, answers := s.answers, sink := s.sink, output := s.output
    host := s.host, readData := s.readData, draws := s.draws }

end Sys2Proof.Machine
end

