-- ==== Sys2Proof/Machine/Operands.lean ====
section
/-! DEFINITION. The operand forms as the commands read them (R92, R93), and the bit and byte orders of the
streams (R69, R70). The forms' constraints are the decoder's (`acceptOperand`). -/

namespace Sys2Proof.Machine

/-- Form BIT (R92): the bit VAL names. -/
def bitOperand (val : BitVec 8) : Bool := val.getLsbD 0

/-- Form CODE (R93): the LEN bits of BITS, most significant of them first. -/
def codeOperand (len : BitVec 5) (bits : BitVec 16) : List Bool :=
  (List.range len.toNat).map fun k => bits.getLsbD (len.toNat - 1 - k)

/-- Shifting one bit in below (R150): `{acc[6:0], b}`. -/
def shiftIn (acc : Byte) (b : Bool) : Byte :=
  (acc <<< 1) ||| (BitVec.ofBool b).setWidth 8

/-- The padded last byte of Close() (R151): `(BW_ACC << (8 - BW_NBITS))[7:0]`. -/
def padByte (acc : Byte) (n : Fin 8) : Byte := acc <<< (8 - n.val)

/-- Byte `k` of the frequency table (R70, R113): big-endian counters, index = byte value. -/
def tableByte (hist : Vector Word 256) (k : Fin 1024) : Byte :=
  (hist[k.val / 4]'(by omega)).extractLsb' (8 * (3 - k.val % 4)) 8

/-- `v <- {v[23:0], b}` (R114). -/
def shiftInByte (v : Word) (b : Byte) : Word := (v <<< 8) ||| b.setWidth 32

/-- The counter that table byte `k` belongs to (R70): `k / 4`. -/
def counterOf (k : Fin 1024) : Byte := BitVec.ofNat 8 (k.val / 4)

/-- 32 bits of a bit list from position `at32` on, the first in bit 31, absent ones 0 (R63). -/
def windowBits (bits : List Bool) (at32 : Nat) : Word :=
  (List.range 32).foldl
    (fun v k => (v <<< 1) ||| (BitVec.ofBool (bits.getD (at32 + k) false)).setWidth 32) 0#32

/-- A one-bit field of a register at bit `k`. -/
def fieldBit (b : Bool) (k : Nat) : Word := if b then 1#32 <<< k else 0#32

/-- The 256 symbols in ascending order (R132). -/
def symbols : List Byte := (List.range 256).map (BitVec.ofNat 8)

end Sys2Proof.Machine
end

