-- ==== Sys2Proof/Machine/Flags.lean ====
section
/-! DEFINITION. STATUS, ERRCODE's numbers and the interrupt line (R24 to R26, R211, R220). -/

namespace Sys2Proof.Machine

/-- The number of each error code (R211). -/
def ErrCode.number : ErrCode → Byte
  | .none => 0x00#8
  | .malformedHeader => 0x01#8
  | .corruptBody => 0x02#8
  | .underlyingIo => 0x04#8
  | .illegalCmd => 0x10#8
  | .badOperand => 0x11#8
  | .noTree => 0x12#8
  | .noCodes => 0x13#8
  | .notOpen => 0x14#8
  | .noCode => 0x15#8
  | .countOverflow => 0x16#8
  | .missingChild => 0x17#8
  | .budgetUnderflow => 0x18#8

/-- The STATUS register as read (R25). -/
def statusWord (s : State) : Word :=
  fieldBit s.busy 0 ||| fieldBit s.done 1 ||| fieldBit s.err 2 ||| fieldBit s.rej 3 |||
    fieldBit s.treeValid 4 ||| fieldBit s.codesValid 5 ||| fieldBit s.brOpen 6

/-- A STATUS write (R25): bits 1, 2, 3 written 1 clear DONE, ERR (with ERRCODE and ERRINFO, R216) and
REJ; every other bit is unaffected. -/
def writeStatus (v : Word) (s : State) : State :=
  let s := if v.getLsbD 1 then { s with done := false } else s
  let s := if v.getLsbD 2 then clearError s else s
  if v.getLsbD 3 then { s with rej := false } else s

/-- A CTRL write (R24): SRST = 1 performs the soft reset whatever bit 0 says, else IE is bit 0. -/
def writeCtrl (v : Word) (s : State) : State :=
  if v.getLsbD 1 then hardReset s else { s with ie := v.getLsbD 0 }

/-- The interrupt output, a level (R220): IRQ = CTRL.IE AND STATUS.DONE. -/
def State.irq (s : State) : Bool := s.ie && s.done

/-- A write of CMD (R28): accepted when BUSY = 0 and ERR = 0, otherwise refused. -/
def writeCmd (w : Word) (s : State) : State :=
  if s.busy || s.err then s.reject
  else { s with pending := some w, progress := .start, busy := true, done := false }

end Sys2Proof.Machine
end

