-- ==== Sys2Proof/Machine/BitReader.lean ====
section
/-! DEFINITION. The BitReader and the entropy decoder: BROPEN, BRBIT, BRSYM, DECSYM, DEC, ISKIP
(43_bitreader_decoder.md). -/

namespace Sys2Proof.Machine

/-- The command word of the two tree-walking commands. -/
def DecodeCmd.word : DecodeCmd → Word
  | .decsym => encode .decsym
  | .dec => encode .dec

/-- The last two lines of ReadBit (R170): the next bit of BR_BUF, its bit BR_NLEFT - 1, with BR_NLEFT one
less. Called with BR_NLEFT ≠ 0. -/
def takeBit (s : State) : Run (Option Bool) :=
  .ok (some (s.brBuf.getLsbD (s.brNleft.val - 1)))
    (s.setReader s.brBuf ⟨s.brNleft.val - 1, by omega⟩)

/-- `ReadBit()` (R170); `none` is EXH. -/
def readBit (p : Progress) (s : State) : Run (Option Bool) :=
  if s.budget = 0#40 then .ok none s
  else if s.brNleft = 0 then
    (pull p s).andThen fun it s =>
      match it with
      | .eos => .raised .corruptBody (s.budget.extractLsb' 0 32) s
      | .ioerr => .raised .underlyingIo 0#32 s
      | .byte v => takeBit (s.setReader v 8)
  else takeBit s

/-- `SymbolConsumed()` (R171); `w` is the command word. -/
def symbolConsumed (w : Word) (s : State) : Run Unit :=
  if s.budget = 0#40 then .raised .budgetUnderflow w s
  else .ok () (s.setBudget (s.budget - 1#40))

/-- The last two lines of DecodeSymbol (R172), after its push: count the symbol, return it. -/
def countSymbol (c : DecodeCmd) (sym : Byte) (s : State) : Run (Option Byte) :=
  (symbolConsumed c.word s).andThen fun _ s => .ok (some sym) s

/-- The end of DecodeSymbol's walk (R172), at a leaf: push its symbol, count it, return it. -/
def emitSymbol (c : DecodeCmd) (sym : Byte) (s : State) : Run (Option Byte) :=
  (pushByte (.emit c sym) sym s).andThen fun _ s => countSymbol c sym s

/-- How many bits ReadBit can return before it must wait. -/
def bitsQueued (s : State) : Nat := 8 * s.input.length + s.brNleft.val

/-- The loop of DecodeSymbol (R172) from the cursor `cur`. Each round reads one bit, so a bound of
`bitsQueued s + 1` rounds is never reached: the last of them waits in ReadBit's Pull. -/
def walkTree (c : DecodeCmd) : Nat → NodeIx → State → Run (Option Byte)
  | 0, cur, s => .held (.walk c cur) s
  | n + 1, cur, s =>
    (readBit (.walk c cur) s).andThen fun r s =>
      match r with
      | none => .ok none s
      | some bit =>
        match (s.tree.nodeAt cur).child bit with
        | none => .raised .missingChild (BitVec.ofNat 32 cur.val) s
        | some nxt =>
          match s.tree.nodeAt nxt with
          | .leaf sym _ => emitSymbol c sym s
          | .internal _ _ _ => walkTree c n nxt s

/-- DecodeSymbol's loop, with as many rounds as there are bits. -/
def walkFrom (c : DecodeCmd) (cur : NodeIx) (s : State) : Run (Option Byte) :=
  walkTree c (bitsQueued s + 1) cur s

/-- `DecodeSymbol()` (R172); `none` is EXH. -/
def decodeSymbol (c : DecodeCmd) (s : State) : Run (Option Byte) :=
  if s.budget = 0#40 then .ok none s
  else
    match s.tree.root with
    | none => .raised .missingChild 0xFFFFFFFF#32 s
    | some r => walkFrom c r s

/-- RESULT when the budget was found at zero, and at the end of DEC: VALID 1, EXH 1, VALUE 0 (R181, R183,
R184). -/
def Result.exhausted : Result := { value := 0#8, exh := true, valid := true }

/-- RESULT after a value was read: VALID 1, EXH 0 (R181, R183). -/
def Result.ofValue (v : Byte) : Result := { value := v, exh := false, valid := true }

/-- RESULT of a read that may be EXH. -/
def Result.ofRead : Option Byte → Result
  | none => Result.exhausted
  | some v => Result.ofValue v

/-- BROPEN (R180). -/
def execBropen (s : State) : Host.Outcome State Fault Refusal :=
  finish (encode .bropen) (.ok () s.openReader)

/-- BRBIT's pseudocode (R181). -/
def brbitBody (s : State) : Run Unit :=
  (readBit .brbit s).andThen fun r s =>
    .ok () (s.setResult (Result.ofRead (r.map fun b => (BitVec.ofBool b).setWidth 8)))

/-- BRBIT (R181): needs BR_OPEN (R214 check 5). -/
def execBrbit (s : State) : Host.Outcome State Fault Refusal :=
  finish (encode .brbit)
    (if s.brOpen then brbitBody s else .raised .notOpen (encode .brbit) s)

/-- BRSYM (R182): needs BR_OPEN (R214 check 5). -/
def execBrsym (s : State) : Host.Outcome State Fault Refusal :=
  finish (encode .brsym)
    (if s.brOpen then symbolConsumed (encode .brsym) s else .raised .notOpen (encode .brsym) s)

/-- DEC's loop (R184), `while BUDGET > 0`: every round emits one symbol and takes one off BUDGET, so `n` =
BUDGET rounds are the whole loop. -/
def decLoop : Nat → State → Run Unit
  | 0, s => .ok () (s.setResult Result.exhausted)
  | n + 1, s => (decodeSymbol .dec s).andThen fun _ s => decLoop n s

/-- What follows DecodeSymbol in each of the two commands (R183, R184). -/
def afterSymbol : DecodeCmd → Option Byte → State → Run Unit
  | .decsym, r, s => .ok () (s.setResult (Result.ofRead r))
  | .dec, _, s => decLoop s.budget.toNat s

/-- DECSYM (R183): needs TREE_VALID, then BR_OPEN (R214 checks 3 and 5). -/
def execDecsym (s : State) : Host.Outcome State Fault Refusal :=
  finish (encode .decsym)
    (if s.treeValid then
       if s.brOpen then (decodeSymbol .decsym s).andThen (afterSymbol .decsym)
       else .raised .notOpen (encode .decsym) s
     else .raised .noTree (encode .decsym) s)

/-- DEC (R184): needs TREE_VALID (R214 check 3); a fresh reader and BUDGET <- TOTAL, then the loop. -/
def execDec (s : State) : Host.Outcome State Fault Refusal :=
  finish (encode .dec)
    (if s.treeValid then decLoop s.tree.total.toNat (s.setBudget s.tree.total).openReader
     else .raised .noTree (encode .dec) s)

/-- ISKIP's loop (R185) over the items queued, which are the state's input queue. -/
def iskipLoop : List InItem → State → Run Unit
  | [], s => .held .iskip s
  | it :: q, s =>
    match it with
    | .eos => .ok () (s.setInput q)
    | .ioerr => .raised .underlyingIo 0#32 (s.setInput q)
    | .byte _ => iskipLoop q (s.setInput q)

/-- ISKIP (R185). -/
def execIskip (s : State) : Host.Outcome State Fault Refusal :=
  finish (encode .iskip) (iskipLoop s.input s)

end Sys2Proof.Machine
end

