-- ==== Sys2Proof/Machine/BitWriter.lean ====
section
/-! DEFINITION. The BitWriter and the entropy encoder: BWBIT, BWCODE, BWCLOSE, ENCB, ENC
(42_bitwriter_encoder.md). -/

namespace Sys2Proof.Machine

/-- `WriteBit(b)` (R150). `rest` and `stream` only say where the command goes on if it must wait in the
push (R37). A failed push leaves the writer empty and the byte lost (R158). -/
def writeBit (stream : Bool) (rest : List Bool) (b : Bool) (s : State) : Run Unit :=
  if h : s.bwNbits.val + 1 < 8 then
    .ok () (s.setWriter (shiftIn s.bwAcc b) ⟨s.bwNbits.val + 1, h⟩)
  else
    pushByte (.write stream (shiftIn s.bwAcc b) rest) (shiftIn s.bwAcc b) (s.setWriter 0#8 0)

/-- `WriteBit` for each bit of a list, in order (R152, R154). -/
def writeBits (stream : Bool) : List Bool → State → Run Unit
  | [], s => .ok () s
  | b :: bs, s => (writeBit stream bs b s).andThen fun _ s => writeBits stream bs s

/-- `Close()` (R151). -/
def closeWriter (s : State) : Run Unit :=
  if s.bwNbits = 0 then .ok () s
  else pushByte (.close (padByte s.bwAcc s.bwNbits)) (padByte s.bwAcc s.bwNbits) (s.setWriter 0#8 0)

/-- `EncodeSymbol(s)` (R152): a symbol without a code raises NO_CODE with nothing written. -/
def encodeSymbol (stream : Bool) (sym : Byte) (s : State) : Run Unit :=
  if s.codeAt sym = [] then .raised .noCode (sym.setWidth 32) s
  else writeBits stream (s.codeAt sym) s

/-- BWBIT (R153): the operand check of R92 (the decoder has made it for a word, log entry 10), then one
WriteBit. -/
def execBwbit (val : BitVec 8) (s : State) : Host.Outcome State Fault Refusal :=
  finish (encode (.bwbit val))
    (if (Instr.bwbit val).wf then writeBits false [bitOperand val] s
     else .raised .badOperand (encode (.bwbit val)) s)

/-- BWCODE (R154): the operand check of R92, then the LEN bits, most significant first. -/
def execBwcode (len : BitVec 5) (bits : BitVec 16) (s : State) : Host.Outcome State Fault Refusal :=
  finish (encode (.bwcode len bits))
    (if (Instr.bwcode len bits).wf then writeBits false (codeOperand len bits) s
     else .raised .badOperand (encode (.bwcode len bits)) s)

/-- BWCLOSE (R155). -/
def execBwclose (s : State) : Host.Outcome State Fault Refusal :=
  finish (encode .bwclose) (closeWriter s)

/-- ENCB (R156): needs CODES_VALID (R214 check 4). -/
def execEncb (sym : BitVec 8) (s : State) : Host.Outcome State Fault Refusal :=
  finish (encode (.encb sym))
    (if s.codesValid then encodeSymbol false sym s
     else .raised .noCodes (encode (.encb sym)) s)

/-- ENC's loop (R157) over the items queued, which are the state's input queue. -/
def encLoop : List InItem → State → Run Unit
  | [], s => .held .enc s
  | it :: q, s =>
    match it with
    | .eos => .ok () (s.setInput q)
    | .ioerr => .raised .underlyingIo 0#32 (s.setInput q)
    | .byte b => (encodeSymbol true b (s.setInput q)).andThen fun _ s => encLoop q s

/-- ENC (R157): needs CODES_VALID (R214 check 4); the writer is not closed. -/
def execEnc (s : State) : Host.Outcome State Fault Refusal :=
  finish (encode .enc)
    (if s.codesValid then encLoop s.input s else .raised .noCodes (encode .enc) s)

end Sys2Proof.Machine
end

