-- ==== Sys2Proof/Machine/Control.lean ====
section
/-! DEFINITION. NOP (44_control.md). -/

namespace Sys2Proof.Machine

/-- NOP (R200): "do nothing"; only the completion effects. -/
def execNop (s : State) : Host.Outcome State Fault Refusal :=
  finish (encode .nop) (.ok () s)

end Sys2Proof.Machine
end

