-- ==== Sys2Proof/Machine/Histogram.lean ====
section
/-! DEFINITION. The histogram commands HCLR, HCNT, FRQOUT, FRQIN (40_histogram.md). -/

namespace Sys2Proof.Machine

/-- HCLR (R110). -/
def execHclr (s : State) : Host.Outcome State Fault Refusal :=
  finish (encode .hclr) (.ok () { s.invalidate with hist := Vector.replicate 256 0#32 })

/-- Counting one byte (R111): never wraps; a full counter raises COUNT_OVERFLOW and keeps its value. -/
def countByte (b : Byte) (s : State) : Run Unit :=
  if s.histAt b = 0xFFFFFFFF#32 then .raised .countOverflow (b.setWidth 32) s
  else .ok () (s.setHist b (s.histAt b + 1#32))

/-- HCNT's loop (R112) over the items queued, which are the state's input queue. -/
def hcntLoop : List InItem → State → Run Unit
  | [], s => .held .hcnt s
  | it :: q, s =>
    match it with
    | .eos => .ok () (s.setInput q)
    | .ioerr => .raised .underlyingIo 0#32 (s.setInput q)
    | .byte b => (countByte b (s.setInput q)).andThen fun _ s => hcntLoop q s

/-- HCNT (R112): invalidate, then count. -/
def execHcnt (s : State) : Host.Outcome State Fault Refusal :=
  finish (encode .hcnt) (hcntLoop s.invalidate.input s.invalidate)

/-- FRQOUT's loops (R113), flattened to the table's bytes in stream order: the last `n` bytes of it (log entry
14). -/
def frqoutFrom : Nat → State → Run Unit
  | 0, s => .ok () s
  | n + 1, s =>
    (pushByte (.frqout ⟨1023 - n, by omega⟩) (tableByte s.hist ⟨1023 - n, by omega⟩) s).andThen
      fun _ s => frqoutFrom n s

/-- FRQOUT (R113): the 1024 bytes of the table. -/
def execFrqout (s : State) : Host.Outcome State Fault Refusal :=
  finish (encode .frqout) (frqoutFrom Config.tableBytes s)

/-- One byte of FRQIN's inner loop (R114): `v` is the counter in hand; its fourth byte stores it. -/
def storeTableByte (k : Fin 1024) (v : Word) (s : State) : State :=
  if k.val % 4 = 3 then s.setHist (counterOf k) v else s

/-- FRQIN's loops (R114), flattened to the table's bytes in stream order: the last `n` bytes of it, `v`
holding the bytes of the counter in hand. -/
def frqinFrom : Nat → Word → State → Run Unit
  | 0, _, s => .ok () s
  | n + 1, v, s =>
    (pull (.frqin ⟨1023 - n, by omega⟩ v) s).andThen fun it s =>
      match it with
      | .eos => .raised .malformedHeader (BitVec.ofNat 32 (1023 - n)) s
      | .ioerr => .raised .underlyingIo 0#32 s
      | .byte b =>
        let v' := shiftInByte v b
        frqinFrom n (if (1023 - n) % 4 = 3 then 0#32 else v') (storeTableByte ⟨1023 - n, by omega⟩ v' s)

/-- FRQIN (R114): invalidate, then load. -/
def execFrqin (s : State) : Host.Outcome State Fault Refusal :=
  finish (encode .frqin) (frqinFrom Config.tableBytes 0#32 s.invalidate)

end Sys2Proof.Machine
end

