-- ==== Sys2Proof/Machine/TreeBuild.lean ====
section
/-! DEFINITION. The tree builder and the code generator, BUILD and GENCODES (41_tree.md). -/

namespace Sys2Proof.Machine

/-! ### The build algorithm (R130 to R134) -/

/-- The NODE array being filled, the priority structure in its order (R133), and `k`, the sequence number
of the next node (R132). -/
structure Builder where
  node  : Vector Node 511
  queue : List NodeIx
  k     : Nat
deriving DecidableEq, Repr

/-- Node `a` precedes node `b` (R133): by weight, then by sequence number. -/
def precedes (node : Vector Node 511) (a b : NodeIx) : Bool :=
  let wa := (node[a.val]'a.isLt).weight
  let wb := (node[b.val]'b.isLt).weight
  decide (wa < wb) || (wa == wb && decide (a < b))

/-- Insertion into the priority structure, kept in the order of R133; ExtractMin is then its head. -/
def insertByPriority (node : Vector Node 511) (j : NodeIx) : List NodeIx → List NodeIx
  | [] => [j]
  | x :: q => if precedes node j x then j :: x :: q else x :: insertByPriority node j q

/-- `NODE[k] <- nd; Insert(k); k <- k + 1` (R132, R134). -/
def Builder.insert (b : Builder) (nd : Node) : Builder :=
  let node := b.node.setIfInBounds b.k nd
  { node := node
    queue := insertByPriority node (Fin.ofNat 511 b.k) b.queue
    k := b.k + 1 }

/-- One step of R132's loop: a leaf for a symbol that occurs. -/
def Builder.addLeaf (hist : Vector Word 256) (b : Builder) (sym : Byte) : Builder :=
  let n := hist[sym.toNat]'sym.isLt
  if n = 0#32 then b else b.insert (.leaf sym (n.setWidth 40))

/-- The leaves in ascending symbol order (R132). -/
def Builder.leaves (hist : Vector Word 256) : Builder :=
  symbols.foldl (Builder.addLeaf hist) { node := Tree.empty.node, queue := [], k := 0 }

/-- One merge (R134): the first node extracted goes left, the second right. -/
def Builder.merge (b : Builder) (x y : NodeIx) (rest : List NodeIx) : Builder :=
  Builder.insert { b with queue := rest }
    (.internal ((b.node[x.val]'x.isLt).weight + (b.node[y.val]'y.isLt).weight) x (some y))

/-- The merge loop (R134): while the structure holds more than one node. Each merge takes one node off its
size, so `n` = its size is enough. -/
def Builder.mergeAll : Nat → Builder → Builder
  | 0, b => b
  | n + 1, b =>
    match b.queue with
    | x :: y :: rest => Builder.mergeAll n (b.merge x y rest)
    | _ => b

/-- n, the number of symbols that occur (R130). -/
def distinctCount (hist : Vector Word 256) : Nat :=
  (symbols.filter fun sym => hist[sym.toNat]'sym.isLt != 0#32).length

/-- TOTAL, the 40-bit sum of HIST (R140). -/
def histTotal (hist : Vector Word 256) : Weight :=
  symbols.foldl (fun t sym => t + (hist[sym.toNat]'sym.isLt).setWidth 40) 0#40

/-- The one-symbol tree (R131), over the leaf already made: NODE[1] is the one-child node over NODE[0]. -/
def Builder.addOneChild (b : Builder) : Builder :=
  b.insert (.internal (b.node[0]).weight 0 none)

/-- The nodes and root `build(histogram)` makes (R130): no tree, the one-symbol tree, or the merged one. -/
def buildNodes (hist : Vector Word 256) : Builder × Option NodeIx :=
  let leaves := Builder.leaves hist
  match leaves.queue with
  | [] => (leaves, none)
  | [_] => (leaves.addOneChild, some 1)
  | _ =>
    let b := leaves.mergeAll leaves.queue.length
    (b, b.queue.head?)

/-- `build(histogram)` with the summary BUILD records (R130, R140): "The result depends on HIST alone". -/
def Tree.ofHist (hist : Vector Word 256) : Tree :=
  let r := buildNodes hist
  { node := r.1.node
    ndist := BitVec.ofNat 9 (distinctCount hist)
    nnodes := BitVec.ofNat 10 r.1.k
    root := r.2
    total := histTotal hist }

/-- BUILD (R140): never fails, accepts any HIST. -/
def execBuild (s : State) : Host.Outcome State Fault Refusal :=
  finish (encode .build)
    (.ok () { s with codesValid := false, tree := Tree.ofHist s.hist, treeValid := true })

/-! ### Code generation (R136, R141) -/

/-- The walk of R141 with its explicit stack: a leaf records its path, an internal node pushes its right
then its left child. A tree has at most 511 nodes and each is popped once, so `n` = 511 is enough (R260;
log entry 11). -/
def walkCodes (t : Tree) : Nat → List (NodeIx × List Bool) → Vector (List Bool) 256 →
    Vector (List Bool) 256
  | 0, _, code => code
  | _ + 1, [], code => code
  | n + 1, (j, p) :: stack, code =>
    match t.nodeAt j with
    | .leaf sym _ => walkCodes t n stack (code.set sym.toNat p sym.isLt)
    | .internal _ l none => walkCodes t n ((l, p ++ [false]) :: stack) code
    | .internal _ l (some r) => walkCodes t n ((l, p ++ [false]) :: (r, p ++ [true]) :: stack) code

/-- `generateCodes(tree)` (R136, R141): every entry emptied, then the walk from the root, if there is one. -/
def codesOf (t : Tree) : Vector (List Bool) 256 :=
  match t.root with
  | none => Vector.replicate 256 []
  | some r => walkCodes t Config.maxNodes [(r, [])] (Vector.replicate 256 [])

/-- GENCODES (R141): needs TREE_VALID (R214 check 3). -/
def execGencodes (s : State) : Host.Outcome State Fault Refusal :=
  finish (encode .gencodes)
    (if s.treeValid then .ok () { s with code := codesOf s.tree, codesValid := true }
     else .raised .noTree (encode .gencodes) s)

end Sys2Proof.Machine
end

