-- ==== Sys2Proof/Machine/Dispatch.lean ====
section
/-! DEFINITION. One arm per command (R94): running an accepted command from its start (R90). -/

namespace Sys2Proof.Machine

def exec (i : Instr) (s : State) : Host.Outcome State Fault Refusal :=
  match i with
  | .nop => Sys2Proof.Machine.execNop s
  | .hclr => Sys2Proof.Machine.execHclr s
  | .hcnt => Sys2Proof.Machine.execHcnt s
  | .frqout => Sys2Proof.Machine.execFrqout s
  | .frqin => Sys2Proof.Machine.execFrqin s
  | .build => Sys2Proof.Machine.execBuild s
  | .gencodes => Sys2Proof.Machine.execGencodes s
  | .bwbit val => Sys2Proof.Machine.execBwbit val s
  | .bwcode len bits => Sys2Proof.Machine.execBwcode len bits s
  | .bwclose => Sys2Proof.Machine.execBwclose s
  | .encb sym => Sys2Proof.Machine.execEncb sym s
  | .enc => Sys2Proof.Machine.execEnc s
  | .bropen => Sys2Proof.Machine.execBropen s
  | .brbit => Sys2Proof.Machine.execBrbit s
  | .brsym => Sys2Proof.Machine.execBrsym s
  | .decsym => Sys2Proof.Machine.execDecsym s
  | .dec => Sys2Proof.Machine.execDec s
  | .iskip => Sys2Proof.Machine.execIskip s

end Sys2Proof.Machine
end

