-- ==== Sys2Proof/Machine/Registers.lean ====
section
/-! DEFINITION. The register port: the map (R62), the NODE and CODE windows (R63), reads (R65) and writes
(R24, R25, R28, R34, R64). -/

namespace Sys2Proof.Machine

/-- What an address of the register space names (R62). -/
inductive Reg where
  | id | ctrl | status | errcode | errinfo | cmd | result | ndist | nnodes | root
  | totalLo | totalHi | budgetLo | budgetHi | bwState | brState
  /-- HIST[i], 0x400 + 4·i. -/
  | hist (i : Byte)
  /-- Word `word` of NODE slot `slot`, 0x2000 + 16·slot + 4·word. -/
  | node (slot : BitVec 9) (word : BitVec 2)
  /-- Word `word` of CODE slot `sym`, 0x4000 + 64·sym + 4·word. -/
  | code (sym : Byte) (word : BitVec 4)
  | reserved
deriving DecidableEq, Repr

/-- The sixteen registers 0x000 to 0x03C in the order of R62. -/
def lowRegs : List Reg :=
  [.id, .ctrl, .status, .errcode, .errinfo, .cmd, .result, .ndist, .nnodes, .root,
   .totalLo, .totalHi, .budgetLo, .budgetHi, .bwState, .brState]

/-- The address map (R62). `a` is addr[15:2]. -/
def Reg.ofAddr (a : RegAddr) : Reg :=
  if a.extractLsb' 4 10 = 0#10 then lowRegs.getD (a.extractLsb' 0 4).toNat .reserved
  else if a.extractLsb' 8 6 = 1#6 then .hist (a.extractLsb' 0 8)
  else if a.extractLsb' 11 3 = 1#3 then .node (a.extractLsb' 2 9) (a.extractLsb' 0 2)
  else if a.extractLsb' 12 2 = 1#2 then .code (a.extractLsb' 4 8) (a.extractLsb' 0 4)
  else .reserved

/-- addr[15:2] of a 16-bit byte address (R60). -/
def wordAddr (byteAddr : BitVec 16) : RegAddr := byteAddr.extractLsb' 2 14

/-- One word of a valid NODE slot (R63). -/
def nodeWord (nd : Node) (word : BitVec 2) : Word :=
  match nd with
  | .leaf sym w =>
    if word = 0#2 then fieldBit true 31 ||| fieldBit true 30 ||| sym.setWidth 32
    else if word = 1#2 then w.extractLsb' 0 32
    else if word = 2#2 then (w.extractLsb' 32 8).setWidth 32
    else 0#32
  | .internal w l r =>
    if word = 0#2 then fieldBit true 31 ||| fieldBit true 29 ||| fieldBit r.isSome 28
    else if word = 1#2 then w.extractLsb' 0 32
    else if word = 2#2 then (w.extractLsb' 32 8).setWidth 32
    else
      let right : Word := match r with
        | none => 0#32
        | some j => BitVec.ofNat 32 j.val
      (BitVec.ofNat 32 l.val <<< 16) ||| right

/-- The NODE window (R63): 0 while TREE_VALID = 0 and from slot NNODES on; slot 511 is always 0. -/
def nodeWindow (s : State) (slot : BitVec 9) (word : BitVec 2) : Word :=
  if h : slot.toNat < 511 then
    if s.treeValid && decide (slot.toNat < s.tree.nnodes.toNat) then
      nodeWord (s.tree.nodeAt ⟨slot.toNat, h⟩) word
    else 0#32
  else 0#32

/-- The CODE window (R63): word 0 holds len, words 1 to 8 the code's bits from bit 31 down, words 9 to 15
read 0; all 0 while CODES_VALID = 0. -/
def codeWindow (s : State) (sym : Byte) (word : BitVec 4) : Word :=
  if s.codesValid then
    if word = 0#4 then (BitVec.ofNat 8 (s.codeAt sym).length).setWidth 32
    else if word.toNat ≤ 8 then windowBits (s.codeAt sym) (32 * (word.toNat - 1))
    else 0#32
  else 0#32

/-- RESULT as read (R29). -/
def resultWord (r : Result) : Word :=
  r.value.setWidth 32 ||| fieldBit r.exh 8 ||| fieldBit r.valid 9

/-- ROOT as read (R33): the index, or 0x80000000 when the root is NONE. -/
def rootWord : Option NodeIx → Word
  | none => 0x80000000#32
  | some j => BitVec.ofNat 32 j.val

/-- The value a register read returns between commands (R23 to R36, R62, R63); CMD and reserved addresses
read 0 (R28, R62). -/
def regValue (r : Reg) (s : State) : Word :=
  match r with
  | .id => Config.idValue
  | .ctrl => fieldBit s.ie 0
  | .status => statusWord s
  | .errcode => s.errcode.number.setWidth 32
  | .errinfo => s.errinfo
  | .cmd => 0#32
  | .result => resultWord s.result
  | .ndist => s.tree.ndist.setWidth 32
  | .nnodes => s.tree.nnodes.setWidth 32
  | .root => rootWord s.tree.root
  | .totalLo => s.tree.total.extractLsb' 0 32
  | .totalHi => (s.tree.total.extractLsb' 32 8).setWidth 32
  | .budgetLo => s.budget.extractLsb' 0 32
  | .budgetHi => (s.budget.extractLsb' 32 8).setWidth 32
  | .bwState => (s.bwAcc.setWidth 32 <<< 8) ||| BitVec.ofNat 32 s.bwNbits.val
  | .brState => (s.brBuf.setWidth 32 <<< 8) ||| BitVec.ofNat 32 s.brNleft.val
  | .hist i => s.histAt i
  | .node slot word => nodeWindow s slot word
  | .code sym word => codeWindow s sym word
  | .reserved => 0#32

/-- ID, CTRL and STATUS are the registers whose reads are defined while BUSY = 1 (R65). -/
def Reg.readableBusy : Reg → Bool
  | .id | .ctrl | .status => true
  | .errcode | .errinfo | .cmd | .result | .ndist | .nnodes | .root | .totalLo | .totalHi
  | .budgetLo | .budgetHi | .bwState | .brState | .hist _ | .node _ _ | .code _ _ | .reserved => false

/-- A register read (R65): no side effect on the core; while BUSY = 1 every register but ID, CTRL and
STATUS returns a free value, the next one of `Config.freeRead` (log entries 5 and 16). -/
def readReg (r : Reg) (s : State) : State :=
  if s.busy && !r.readableBusy then
    { s with readData := Config.freeRead s.draws, draws := s.draws + 1 }
  else { s with readData := regValue r s }

/-- A write to HIST[i] (R39, R64): ignored with REJ while BUSY, else the tree and codes are invalidated and
the entry replaced. -/
def writeHist (i : Byte) (v : Word) (s : State) : State :=
  if s.busy then s.reject else s.invalidate.setHist i v

/-- A write to BUDGET_LO (R34, R64): replaces BUDGET[31:0]. -/
def writeBudgetLo (v : Word) (s : State) : State :=
  if s.busy then s.reject else s.setBudget (((s.budget >>> 32) <<< 32) ||| v.setWidth 40)

/-- A write to BUDGET_HI (R34, R64): replaces BUDGET[39:32] by bits [7:0] of the word. -/
def writeBudgetHi (v : Word) (s : State) : State :=
  if s.busy then s.reject
  else s.setBudget ((v.setWidth 40 <<< 32) ||| (s.budget.setWidth 32).setWidth 40)

/-- A register write (R62, R64): a write to a read-only register, a window or a reserved address has no
effect and does not set REJ. -/
def writeReg (r : Reg) (v : Word) (s : State) : State :=
  match r with
  | .ctrl => writeCtrl v s
  | .status => writeStatus v s
  | .cmd => writeCmd v s
  | .budgetLo => writeBudgetLo v s
  | .budgetHi => writeBudgetHi v s
  | .hist i => writeHist i v s
  | .id | .errcode | .errinfo | .result | .ndist | .nnodes | .root | .totalLo | .totalHi
  | .bwState | .brState | .node _ _ | .code _ _ | .reserved => s

end Sys2Proof.Machine
end

