-- ==== Sys2Proof/Machine/HostPort.lean ====
section
/-! DEFINITION. The host's moves (R77): register accesses, items presented, pushes answered, reset. -/

namespace Sys2Proof.Machine

/-- The byte of the push the core waits in, if it waits in one (R67). -/
def offeredByte (s : State) : Option Byte :=
  match s.progress with
  | .frqout k => some (tableByte s.hist k)
  | .write _ b _ => some b
  | .close b => some b
  | .emit _ sym => some sym
  | .start | .hcnt | .frqin _ _ | .enc | .brbit | .walk _ _ | .iskip => none

/-- The host answers a push (R67): the push on offer, whose byte an OK delivers there and then, so that no later
reset takes it back (R242); with none on offer, or that one answered already, the next push to come (log
entry 4). -/
def answerPush (a : Answer) (s : State) : State :=
  match offeredByte s, s.reply, a with
  | some b, none, .ok => { s with reply := some .ok, output := s.output ++ [b] }
  | some _, none, .ioerr => { s with reply := some .ioerr }
  | _, _, _ => { s with answers := s.answers ++ [a] }

/-- The answer the host's standing plan has for the push on offer, if there is a plan and that push is not answered
yet (R97 `SINKFAIL`). -/
def sinkAnswer (s : State) : Option Answer :=
  match s.sink, offeredByte s, s.reply with
  | some k, some _, none => some (if k = 1 then .ioerr else .ok)
  | _, _, _ => none

/-- `SINKFAIL k` (R97): the pushes are counted from here ("k = 1 is the next push"), so answers given ahead and not
used are dropped (log entry 4). -/
def startSink (k : Nat) (s : State) : State := { s with sink := some k, answers := [] }

/-- A register write (R60). While `rst` is asserted every element holds its reset value, so no write changes
anything and no CMD write is accepted (R240). -/
def hostWrite (addr : RegAddr) (v : Word) (s : State) : State :=
  if s.rst then s else writeReg (Reg.ofAddr addr) v s

/-- `rst` goes to 1 (R240): a command in progress is abandoned at once. -/
def assertReset (s : State) : State := { hardReset s with rst := true }

/-- `rst` goes to 0 (R240): "and on its release, every state element holds" its reset value. Releasing a reset
that is not asserted is no event. -/
def releaseReset (s : State) : State := if s.rst then { hardReset s with rst := false } else s

/-- One host action's effect, the move itself already taken off the host's list (R77). A `wait` that finds
BUSY = 1 has read STATUS and stays to be made again (R97). -/
def perform (a : HostAction) (s : State) : State :=
  match a with
  | .read addr => readReg (Reg.ofAddr addr) s
  | .write addr v => hostWrite addr v s
  | .present it => s.setInput (s.input ++ [it])
  | .answer x => answerPush x s
  | .sinkFail k => startSink k s
  | .wait =>
    let s := readReg .status s
    if s.busy then { s with host := ⟨.wait, false⟩ :: s.host } else s
  | .assertReset => assertReset s
  | .releaseReset => releaseReset s

/-- The host's next move; a host with nothing left to do leaves the state as it is. -/
def hostMove (s : State) : State :=
  match s.host with
  | [] => s
  | m :: rest => perform m.act { s with host := rest }

/-- The host means to move before the core (log entry 3). -/
def hostFirst (s : State) : Bool :=
  match s.host with
  | [] => false
  | m :: _ => m.eager

/-- What the host does when it is its turn: its standing plan answers the push on offer and counts it (R97
`SINKFAIL`), unless a move is marked eager; otherwise it makes its next move (log entries 3 and 4). -/
def hostStep (s : State) : State :=
  match sinkAnswer s with
  | some a => if hostFirst s then hostMove s else answerPush a (s.setSink (s.sink.map Nat.pred))
  | none => hostMove s

end Sys2Proof.Machine
end

