-- ==== Sys2Proof/Machine/Sequencer.lean ====
section
/-! DEFINITION. The core's move: running PENDING from its start (R90) or from the Pull or Push it waits in
(R37, R66, R67). -/

namespace Sys2Proof.Machine

/-- The port a waiting command is served by has what it waits for: an item presented (R66), an answer to its
push (R67). A command not yet begun waits for nothing. -/
def portReady (s : State) : Bool :=
  match s.progress with
  | .start => true
  | .hcnt | .frqin _ _ | .enc | .brbit | .walk _ _ | .iskip => !s.input.isEmpty
  | .frqout _ | .write _ _ _ | .close _ | .emit _ _ => s.reply.isSome

/-- The rest of a command's pseudocode, from the Pull or Push it waits in. -/
def resume (p : Progress) (s : State) : Run Unit :=
  match p with
  | .start => .held .start s
  | .hcnt => hcntLoop s.input s
  | .frqout k => (takeReply (.frqout k) s).andThen fun _ s => frqoutFrom (1023 - k.val) s
  | .frqin k v => frqinFrom (Config.tableBytes - k.val) v s
  | .write stream b rest =>
    (takeReply (.write stream b rest) s).andThen fun _ s =>
      (writeBits stream rest s).andThen fun _ s =>
        if stream then encLoop s.input s else .ok () s
  | .close b => takeReply (.close b) s
  | .enc => encLoop s.input s
  | .brbit => brbitBody s
  | .walk c cur => (walkFrom c cur s).andThen (afterSymbol c)
  | .emit c sym =>
    (takeReply (.emit c sym) s).andThen fun _ s => (countSymbol c sym s).andThen (afterSymbol c)
  | .iskip => iskipLoop s.input s

/-- The core can move: `rst` is not asserted, a command is pending and does not wait for the host (R37, R240; log
entry 13). -/
def coreReady (s : State) : Bool := !s.rst && s.busy && s.pending.isSome && portReady s

/-- The core's move (R90): from the start, decode and run, raising ILLEGAL_CMD or BAD_OPERAND with
ERRINFO = w where the word is no command (R92, R95, R214); from a wait, go on. -/
def coreStep (s : State) : Host.Outcome State Fault Refusal :=
  match s.pending with
  | none => .next s
  | some w =>
    match s.progress with
    | .start =>
      match decode w with
      | .ok i => exec i s
      | .error .illegalCmd => .next (errorEntry w .illegalCmd w s)
      | .error .badOperand => .next (errorEntry w .badOperand w s)
    | p => finish w (resume p s)

/-- Whose move it is: the core's, unless it cannot move or the host goes first (log entry 3). -/
def coreTurn (s : State) : Bool := coreReady s && !hostFirst s

/-- PENDING holding `w`, as right after the accepted CMD write of `w` (R28), with `rst` released and the core to
move next. -/
def latch (w : Word) (s : State) : State :=
  { s with
    rst := false, pending := some w, progress := .start, busy := true, done := false, reply := none
    host := match s.host with
      | [] => []
      | m :: rest => { m with eager := false } :: rest }

end Sys2Proof.Machine
end

