-- ==== Sys2Proof/Machine/Step.lean ====
section
/-! DEFINITION. One step: the core's move or the host's. A state in which neither has a move steps to
itself (R77, R230; log entry 9). -/

namespace Sys2Proof.Machine

def step (s : State) : Host.Outcome State Fault Refusal :=
  if coreTurn s then coreStep s else .next (hostStep s)

/-- The command word `w` where the core fetches its next command, the PENDING latch (R28, R37, log entry
8); the bits above `nbits` are zero. -/
def State.withFetchWord (s : State) (nbits w : Nat) : State :=
  latch (BitVec.ofNat 32 (w % 2 ^ nbits)) s

end Sys2Proof.Machine
end

