-- ==== Sys2Proof/Safety.lean ====
section
/-! DEFINITION. What counts as a safe run: the invariant of every state a run reaches, and the plain
bit-string account of the streams that statements compare the commands with. -/

namespace Sys2Proof.Machine

/-! ### The invariant -/

/-- A command that waits inside a tree walk (R172). -/
def Progress.inWalk : Progress → Bool
  | .walk _ _ | .emit _ _ => true
  | .start | .hcnt | .frqout _ | .frqin _ _ | .write _ _ _ | .close _ | .enc | .brbit | .iskip => false

/-- A command that waits while it changes HIST (R112, R114). -/
def Progress.inCount : Progress → Bool
  | .hcnt | .frqin _ _ => true
  | .start | .frqout _ | .write _ _ _ | .close _ | .enc | .brbit | .walk _ _ | .emit _ _ | .iskip => false

/-- A command that waits in a push of the BitWriter (R150, R151). -/
def Progress.inWriterPush : Progress → Bool
  | .write _ _ _ | .close _ => true
  | .start | .hcnt | .frqout _ | .frqin _ _ | .enc | .brbit | .walk _ _ | .emit _ _ | .iskip => false

/-- A command that waits in a Push (R67). -/
def Progress.inPush : Progress → Bool
  | .frqout _ | .write _ _ _ | .close _ | .emit _ _ => true
  | .start | .hcnt | .frqin _ _ | .enc | .brbit | .walk _ _ | .iskip => false

/-- Which commands can wait at a place (R112 to R114, R150 to R157, R170 to R185). -/
def runsUnder : Progress → Instr → Bool
  | .start, _ => true
  | .hcnt, i => i == .hcnt
  | .frqout _, i => i == .frqout
  | .frqin _ _, i => i == .frqin
  | .write true _ _, i => i == .enc
  | .write false _ _, i => i.opc == 0x20#8 || i.opc == 0x21#8 || i.opc == 0x23#8
  | .close _, i => i == .bwclose
  | .enc, i => i == .enc
  | .brbit, i => i == .brbit
  | .walk .decsym _, i => i == .decsym
  | .walk .dec _, i => i == .dec
  | .emit .decsym _, i => i == .decsym
  | .emit .dec _, i => i == .dec
  | .iskip, i => i == .iskip

/-- BW_ACC[7:BW_NBITS] = 0 (R35). -/
def writerClean (s : State) : Prop := s.bwAcc.toNat < 2 ^ s.bwNbits.val

/-- What holds of every state a run reaches. -/
structure Inv (s : State) : Prop where
  /-- PENDING is held exactly while BUSY = 1 (R37). -/
  busy_pending : s.busy = s.pending.isSome
  /-- Between commands no command is under way (R38). -/
  idle_start : s.busy = false → s.progress = .start
  /-- A waiting command waits at a place of its own (R37). -/
  waits_own : ∀ w, s.pending = some w → s.progress ≠ .start →
    ∃ i, decode w = .ok i ∧ runsUnder s.progress i = true
  /-- DONE = 1 only between commands (R28, R215). -/
  done_idle : s.done = true → s.busy = false
  /-- No command runs while ERR = 1 (R28). -/
  busy_noErr : s.busy = true → s.err = false
  /-- ERR = 1 exactly when ERRCODE names an error (R26, R213). -/
  err_code : s.err = true ↔ s.errcode ≠ .none
  /-- ERRINFO is 0 while there is no error (R27, R216). -/
  noErr_info : s.err = false → s.errinfo = 0#32
  /-- CODES_VALID = 1 implies TREE_VALID = 1 (R39). -/
  codes_tree : s.codesValid = true → s.treeValid = true
  /-- TREE_VALID = 1 implies that the tree was built from the current HIST (R39). -/
  tree_hist : s.treeValid = true → s.tree = Tree.ofHist s.hist
  /-- CODES_VALID = 1 implies that the codes are those of the tree (R32). -/
  codes_of : s.codesValid = true → s.code = codesOf s.tree
  /-- BW_ACC holds nothing above its BW_NBITS bits (R35). -/
  writer_clean : writerClean s
  /-- VALUE = 0 when EXH = 1 (R29). -/
  exh_value : s.result.exh = true → s.result.value = 0#8
  /-- RESULT = 0 when the last of its commands failed, and after reset (R29). -/
  invalid_result : s.result.valid = false → s.result = Result.zero
  /-- "BUDGET > 0 throughout the walk", and the tree walked is a valid one (R172). -/
  walk_budget : s.progress.inWalk = true → s.budget ≠ 0#40 ∧ s.treeValid = true ∧ s.brOpen = true
  /-- The walk stands at an internal node: it begins at the root and goes on from no leaf (R172). -/
  walk_node : ∀ c cur, s.progress = .walk c cur → ∃ w l r, s.tree.nodeAt cur = .internal w l r
  /-- HIST changes only under TREE_VALID = 0 (R39). -/
  count_invalid : s.progress.inCount = true → s.treeValid = false
  /-- While the writer's byte waits to be pushed the writer is empty (R150, R151). -/
  push_empty : s.progress.inWriterPush = true → s.bwAcc = 0#8 ∧ s.bwNbits = 0
  /-- Only a push the core waits in has been given an answer (R67). -/
  reply_push : s.reply ≠ none → s.progress.inPush = true
  /-- No answer given earlier waits behind an unanswered push (R67). -/
  push_answers : s.progress.inPush = true → s.reply = none → s.answers = []
  /-- While `rst` is asserted every element holds its reset value (R240). -/
  rst_held : s.rst = true → s = hardReset s

/-! ### Streams as bit strings (R69) -/

/-- The bits of a byte, bit 7 first (R69). -/
def byteBits (b : Byte) : List Bool := (List.range 8).map fun k => b.getLsbD (7 - k)

/-- The number a bit string is, first bit highest. -/
def bitsNat (bits : List Bool) : Nat := bits.foldl (fun n b => 2 * n + b.toNat) 0

/-- The bits the BitWriter holds, the earliest first (R35). -/
def writerBits (s : State) : List Bool :=
  (List.range s.bwNbits.val).map fun k => s.bwAcc.getLsbD (s.bwNbits.val - 1 - k)

/-- The bits the BitReader holds, the next one first (R36). -/
def readerBits (s : State) : List Bool :=
  (List.range s.brNleft.val).map fun k => s.brBuf.getLsbD (s.brNleft.val - 1 - k)

/-- The whole bytes of a bit string, in order (R69). -/
def wholeBytes (bits : List Bool) : List Byte :=
  (List.range (bits.length / 8)).map fun k => BitVec.ofNat 8 (bitsNat ((bits.drop (8 * k)).take 8))

/-- What is left of a bit string after its whole bytes. -/
def restBits (bits : List Bool) : List Bool := bits.drop (8 * (bits.length / 8))

/-- The host answers the next `n` pushes OK (R67). -/
def sinkAccepts (n : Nat) (s : State) : Prop := s.answers.take n = List.replicate n .ok

/-- The state after `n` bytes `bs` were pushed and answered (R67). -/
def delivered (bs : List Byte) (s : State) : State :=
  { s with output := s.output ++ bs, answers := s.answers.drop bs.length }

/-- The state after the BitWriter has taken `bits` (R69, R150): the whole bytes of the bits it held and the
new ones are delivered, the rest is held. -/
def afterBits (bits : List Bool) (s : State) : State :=
  let all := writerBits s ++ bits
  { delivered (wholeBytes all) s with
    bwAcc := BitVec.ofNat 8 (bitsNat (restBits all))
    bwNbits := ⟨(restBits all).length % 8, Nat.mod_lt _ (by decide)⟩ }

/-- The pushes that writing `bits` makes. -/
def bitsPushes (bits : List Bool) (s : State) : Nat := (writerBits s ++ bits).length / 8

/-- The state in which the BitWriter, writing `bits`, has byte `k` on offer (R150): the `k` bytes before it are
delivered and the writer is empty. It is also the state after an IOERR there, the byte lost (R158). -/
def untilPush (bits : List Bool) (k : Nat) (rest : List Answer) (s : State) : State :=
  { s with
    output := s.output ++ (wholeBytes (writerBits s ++ bits)).take k, answers := rest
    bwAcc := 0#8, bwNbits := 0 }

/-- Byte `k` of those that writing `bits` pushes. -/
def pushedByte (bits : List Bool) (k : Nat) (s : State) : Byte :=
  (wholeBytes (writerBits s ++ bits)).getD k 0#8

/-- The BitReader after it has used up the bytes `bytes` but for the last `n` bits, with `q` still queued
(R36, R170). -/
def readAway (bytes : List Byte) (n : Fin 9) (q : List InItem) (s : State) : State :=
  { s with brBuf := bytes.getLastD s.brBuf, brNleft := n, input := q }

/-! ### Waiting (R37, R66, R67) -/

/-- The command waits in a Pull, in the state `t` but for the place. -/
def waitsInPull (o : Host.Outcome State Fault Refusal) (t : State) : Prop :=
  ∃ p : Progress, p ≠ .start ∧ p.inPush = false ∧ o = .next (hold p t)

/-- The command waits in the Push of `b`, in the state `t` but for the place. -/
def waitsInPush (o : Host.Outcome State Fault Refusal) (b : Byte) (t : State) : Prop :=
  ∃ p : Progress, offeredByte (hold p t) = some b ∧ o = .next (hold p t)

/-- The host presents `q` and gives the answers `a`, one after another. -/
def serve (q : List InItem) (a : List Answer) (s : State) : State :=
  a.foldl (fun s x => perform (.answer x) s) (q.foldl (fun s it => perform (.present it) s) s)

/-! ### The code table and the tree as functions of bit strings (R136, R172) -/

/-- One symbol read off a bit string from the node `cur` (R172): the leaf's symbol and the bits left, or none
where the bits end or a child is missing. -/
def Tree.readSymbol (t : Tree) : NodeIx → List Bool → Option (Byte × List Bool)
  | _, [] => none
  | cur, b :: bits =>
    match (t.nodeAt cur).child b with
    | none => none
    | some nxt =>
      match t.nodeAt nxt with
      | .leaf sym _ => some (sym, bits)
      | .internal _ _ _ => Tree.readSymbol t nxt bits

/-- Where a bit string leads from the node `cur` without reaching a leaf (R172): the node the walk stands at when
the bits are used up, or none where a leaf is reached or a child is missing. -/
def Tree.descend (t : Tree) : NodeIx → List Bool → Option NodeIx
  | cur, [] => some cur
  | cur, b :: bits =>
    match (t.nodeAt cur).child b with
    | none => none
    | some nxt =>
      match t.nodeAt nxt with
      | .leaf _ _ => none
      | .internal _ _ _ => Tree.descend t nxt bits

/-- `n` symbols read off a bit string, each from the root (R184). -/
def Tree.readSymbols (t : Tree) : Nat → List Bool → Option (List Byte × List Bool)
  | 0, bits => some ([], bits)
  | n + 1, bits =>
    match t.root with
    | none => none
    | some r =>
      match t.readSymbol r bits with
      | none => none
      | some (sym, bits') =>
        match t.readSymbols n bits' with
        | none => none
        | some (syms, bits'') => some (sym :: syms, bits'')

/-- The command's first Pull or Push from its start finds its port unserved (R66, R67). -/
def meetsUnservedPort (i : Instr) (s : State) : Prop :=
  match i with
  | .hcnt | .frqin | .iskip => s.input = []
  | .frqout => s.answers = []
  | .bwbit val => val.toNat < 2 ∧ s.bwNbits = 7 ∧ s.answers = []
  | .bwcode len bits =>
    len.toNat ≤ 16 ∧ bits.toNat < 2 ^ len.toNat ∧ 8 ≤ s.bwNbits.val + len.toNat ∧ s.answers = []
  | .bwclose => s.bwNbits ≠ 0 ∧ s.answers = []
  | .encb sym =>
    s.codesValid = true ∧ s.codeAt sym ≠ [] ∧ 8 ≤ s.bwNbits.val + (s.codeAt sym).length ∧ s.answers = []
  | .enc => s.codesValid = true ∧ s.input = []
  | .brbit => s.brOpen = true ∧ s.budget ≠ 0#40 ∧ s.brNleft = 0 ∧ s.input = []
  | .decsym =>
    s.treeValid = true ∧ s.brOpen = true ∧ s.budget ≠ 0#40 ∧
      ∃ r, s.tree.root = some r ∧
        ((s.answers = [] ∧ s.tree.readSymbol r (readerBits s) ≠ none) ∨
          (s.input = [] ∧ s.tree.descend r (readerBits s) ≠ none))
  | .dec => s.treeValid = true ∧ s.tree.total ≠ 0#40 ∧ s.tree.root ≠ none ∧ s.input = []
  | .nop | .hclr | .build | .gencodes | .bropen | .brsym => False

/-- The code of a symbol in the table GENCODES makes of a tree (R136). -/
def Tree.codeOf (t : Tree) (sym : Byte) : List Bool := (codesOf t)[sym.toNat]'sym.isLt

/-- How often a symbol was counted: HIST[sym] (R30). -/
def countOf (hist : Vector Word 256) (sym : Byte) : Word := hist[sym.toNat]'sym.isLt

/-- HIST after counting `bytes` (R111, R112). -/
def countedHist (hist : Vector Word 256) (bytes : List Byte) : Vector Word 256 :=
  Vector.ofFn fun i => hist[i.val] + BitVec.ofNat 32 (bytes.count (BitVec.ofNat 8 i.val))

/-- No counter reaches its cap while `bytes` are counted (R111). -/
def countsFit (hist : Vector Word 256) (bytes : List Byte) : Prop :=
  ∀ i : Fin 256, hist[i.val].toNat + bytes.count (BitVec.ofNat 8 i.val) < 2 ^ 32

/-- The big-endian frequency table (R70). -/
def tableBytes (hist : Vector Word 256) : List Byte :=
  hist.toList.flatMap fun w =>
    [w.extractLsb' 24 8, w.extractLsb' 16 8, w.extractLsb' 8 8, w.extractLsb' 0 8]

/-- HIST after the table bytes `bytes` were loaded (R70, R114): a counter whose four bytes arrived holds them,
the first in bits 31:24; any other keeps its value. -/
def loadedHist (hist : Vector Word 256) (bytes : List Byte) : Vector Word 256 :=
  Vector.ofFn fun i =>
    if 4 * i.val + 3 < bytes.length then
      BitVec.ofNat 32
        (((bytes.getD (4 * i.val) 0#8).toNat * 256 + (bytes.getD (4 * i.val + 1) 0#8).toNat) * 65536 +
          (bytes.getD (4 * i.val + 2) 0#8).toNat * 256 + (bytes.getD (4 * i.val + 3) 0#8).toNat)
    else hist[i.val]

/-- The symbols that occur, ascending (R132). -/
def occurring (hist : Vector Word 256) : List Byte :=
  symbols.filter fun sym => hist[sym.toNat]'sym.isLt != 0#32

/-- A node that is in the priority structure when the next node is `k` (R132, R134): made before `k`, and no
child of a node made before `k`. -/
def inStructure (t : Tree) (k : Nat) (j : NodeIx) : Prop :=
  j.val < k ∧ ∀ m : NodeIx, m.val < k → ∀ b, (t.nodeAt m).child b ≠ some j

/-- The order of R133 on the nodes of a tree. -/
def comesBefore (t : Tree) (a b : NodeIx) : Prop :=
  (t.nodeAt a).weight < (t.nodeAt b).weight ∨
    ((t.nodeAt a).weight = (t.nodeAt b).weight ∧ a < b)

/-- The OPC values of the opcode map (R94). -/
def opcodes : List (BitVec 8) :=
  [0x00#8, 0x01#8, 0x02#8, 0x03#8, 0x04#8, 0x10#8, 0x11#8, 0x20#8, 0x21#8, 0x22#8, 0x23#8, 0x24#8,
   0x30#8, 0x31#8, 0x32#8, 0x33#8, 0x34#8, 0x35#8]

/-- The operand forms of R92 as numbers: BIT asks OPD ∈ {0, 1}, CODE asks OPD < 2^21, LEN ≤ 16 and
BITS < 2^LEN, SYM asks OPD < 256, and every other command is of form Z, OPD = 0. -/
def operandLegal (opc : BitVec 8) (opd : Nat) : Prop :=
  if opc = 0x20#8 then opd ≤ 1
  else if opc = 0x21#8 then
    opd < 2 ^ 21 ∧ opd / 2 ^ 16 ≤ 16 ∧ opd % 2 ^ 16 < 2 ^ (opd / 2 ^ 16)
  else if opc = 0x23#8 then opd < 256
  else opd = 0

/-- The operand bits a form reserves (R92): OPD[23:8] for BIT and SYM, OPD[23:21] for CODE, all of OPD for
Z. -/
def reservedOperand (opc : BitVec 8) (opd : Nat) : Nat :=
  if opc = 0x20#8 ∨ opc = 0x23#8 then opd / 2 ^ 8
  else if opc = 0x21#8 then opd / 2 ^ 21
  else opd

/-- A stream of bytes as input items (R66). -/
def asItems (bytes : List Byte) : List InItem := bytes.map .byte

/-- The errors each command may raise (R211). -/
def mayRaise : Instr → List ErrCode
  | .nop => [.badOperand]
  | .hclr => [.badOperand]
  | .hcnt => [.badOperand, .underlyingIo, .countOverflow]
  | .frqout => [.badOperand, .underlyingIo]
  | .frqin => [.badOperand, .underlyingIo, .malformedHeader]
  | .build => [.badOperand]
  | .gencodes => [.badOperand, .noTree]
  | .bwbit _ => [.badOperand, .underlyingIo]
  | .bwcode _ _ => [.badOperand, .underlyingIo]
  | .bwclose => [.badOperand, .underlyingIo]
  | .encb _ => [.badOperand, .underlyingIo, .noCodes, .noCode]
  | .enc => [.badOperand, .underlyingIo, .noCodes, .noCode]
  | .bropen => [.badOperand]
  | .brbit => [.badOperand, .underlyingIo, .corruptBody, .notOpen]
  | .brsym => [.badOperand, .notOpen, .budgetUnderflow]
  | .decsym => [.badOperand, .underlyingIo, .corruptBody, .noTree, .notOpen, .missingChild]
  | .dec => [.badOperand, .underlyingIo, .corruptBody, .noTree, .missingChild]
  | .iskip => [.badOperand, .underlyingIo]

/-- How many table bytes FRQIN had received before this move (R114). -/
def tableReceived (s : State) : Nat :=
  match s.progress with
  | .frqin k _ => k.val
  | .start | .hcnt | .frqout _ | .write _ _ _ | .close _ | .enc | .brbit | .walk _ _ | .emit _ _
  | .iskip => 0

/-- ERRINFO is what R212 says for the error in ERRCODE, for the core's move from `s` to `t` that ended `i`. An
item is the one that failed when it is the last one the move consumed. -/
def errorInfoStands (i : Instr) (s t : State) : Prop :=
  match t.errcode with
  | .malformedHeader =>
    ∃ bytes, s.input = asItems bytes ++ .eos :: t.input ∧
      t.errinfo.toNat = tableReceived s + bytes.length ∧ t.errinfo.toNat < 1024
  | .corruptBody => t.budget ≠ 0#40 ∧ t.errinfo = t.budget.extractLsb' 0 32
  | .underlyingIo =>
    (t.errinfo = 0#32 ∧ ∃ before, s.input = before ++ .ioerr :: t.input) ∨
      (t.errinfo = 1#32 ∧
        ((s.reply = some .ioerr ∧ t.answers = s.answers) ∨
          ∃ before, s.answers = before ++ .ioerr :: t.answers))
  | .illegalCmd | .badOperand | .noTree | .noCodes | .notOpen | .budgetUnderflow => t.errinfo = encode i
  | .noCode =>
    ∃ b : Byte, t.errinfo = b.setWidth 32 ∧ s.codeAt b = [] ∧
      (i = .encb b ∨ ∃ before, s.input = before ++ .byte b :: t.input)
  | .countOverflow =>
    ∃ b : Byte, t.errinfo = b.setWidth 32 ∧ t.histAt b = 0xFFFFFFFF#32 ∧
      ∃ before, s.input = before ++ .byte b :: t.input
  | .missingChild =>
    (t.tree.root = none ∧ t.errinfo = 0xFFFFFFFF#32) ∨
      ∃ (j : NodeIx) (w : Weight) (l : NodeIx), t.errinfo = BitVec.ofNat 32 j.val ∧
        j.val < t.tree.nnodes.toNat ∧ t.tree.nodeAt j = .internal w l none
  | .none => False

end Sys2Proof.Machine
end

