-- ==== Sys2Proof/Certificates/Slice0/Obligations.lean ====
section
/-! DEFINITION. The statements for the provers, one `def Obligations.<Name> : Prop` each. -/

open Sys2Proof Sys2Proof.Machine

/-! ### Encoding -/

/-- Decoding an encoded well-formed command gives it back, every operand at every legal value (R91, R92,
R94). -/
def Obligations.DecodeOfEncode : Prop :=
  ∀ i : Instr, i.wf = true → decode (encode i) = .ok i

/-- A word that decodes is the encoding of what it decodes to, which is well formed: no word has two meanings
and no bit is ignored ("Reserved operand bits are not ignored", R95). -/
def Obligations.EncodeOfDecode : Prop :=
  ∀ (w : Word) (i : Instr), decode w = .ok i → encode i = w ∧ i.wf = true

/-- The words R94 writes out decode to the commands it names. -/
def Obligations.WordsOfTheMapDecode : Prop :=
  decode 0x00000000#32 = .ok .nop ∧ decode 0x01000000#32 = .ok .hclr ∧
  decode 0x02000000#32 = .ok .hcnt ∧ decode 0x03000000#32 = .ok .frqout ∧
  decode 0x04000000#32 = .ok .frqin ∧ decode 0x10000000#32 = .ok .build ∧
  decode 0x11000000#32 = .ok .gencodes ∧ decode 0x22000000#32 = .ok .bwclose ∧
  decode 0x24000000#32 = .ok .enc ∧ decode 0x30000000#32 = .ok .bropen ∧
  decode 0x31000000#32 = .ok .brbit ∧ decode 0x32000000#32 = .ok .brsym ∧
  decode 0x33000000#32 = .ok .decsym ∧ decode 0x34000000#32 = .ok .dec ∧
  decode 0x35000000#32 = .ok .iskip ∧
  decode 0x20000000#32 = .ok (.bwbit 0#8) ∧ decode 0x20000001#32 = .ok (.bwbit 1#8) ∧
  decode 0x21030002#32 = .ok (.bwcode 3#5 2#16) ∧ decode 0x2300005A#32 = .ok (.encb 0x5A#8)

/-- The 238 OPC values with no row in the map are illegal and no others: a pending word with one raises
ILLEGAL_CMD with ERRINFO = w and has no other effect; a non-zero reserved operand bit of a legal OPC is not
ignored (R95). -/
def Obligations.IllegalOpcodeRaisesIllegalCmd : Prop :=
  (∀ w : Word, opcOf w ∉ opcodes ↔ decode w = .error .illegalCmd) ∧
  (∀ o : BitVec 8, o ∉ opcodes ↔
    (0x05 ≤ o.toNat ∧ o.toNat ≤ 0x0F) ∨ (0x12 ≤ o.toNat ∧ o.toNat ≤ 0x1F) ∨
      (0x25 ≤ o.toNat ∧ o.toNat ≤ 0x2F) ∨ 0x36 ≤ o.toNat) ∧
  (∀ (s : State) (w : Word),
    s.rst = false → s.busy = true → s.pending = some w → s.progress = .start → hostFirst s = false →
    opcOf w ∉ opcodes →
    step s = .next { s with
      busy := false, done := true, pending := none
      err := true, errcode := .illegalCmd, errinfo := w }) ∧
  ∀ w : Word, opcOf w ∈ opcodes → reservedOperand (opcOf w) (opdOf w).toNat ≠ 0 →
    decode w = .error .badOperand

/-- The operand forms (R92): under an OPC of the map, a word is a command exactly when its OPD is legal for
the form, and it is then the OPC's command with the form's fields; a pending word whose OPD is not legal
raises BAD_OPERAND with ERRINFO = w (and RESULT <- 0 for BRBIT, DECSYM, DEC, R213). -/
def Obligations.IllegalOperandRaisesBadOperand : Prop :=
  ∀ w : Word, opcOf w ∈ opcodes →
    let opd := (opdOf w).toNat
    (operandLegal (opcOf w) opd →
      (∃ i, decode w = .ok i ∧ i.opc = opcOf w) ∧
      (opcOf w = 0x20#8 → decode w = .ok (.bwbit (BitVec.ofNat 8 opd))) ∧
      (opcOf w = 0x21#8 →
        decode w = .ok (.bwcode (BitVec.ofNat 5 (opd / 2 ^ 16)) (BitVec.ofNat 16 opd))) ∧
      (opcOf w = 0x23#8 → decode w = .ok (.encb (BitVec.ofNat 8 opd)))) ∧
    (¬operandLegal (opcOf w) opd →
      decode w = .error .badOperand ∧
      ∀ s : State, s.rst = false → s.busy = true → s.pending = some w → s.progress = .start →
        hostFirst s = false →
        step s = .next { s with
          busy := false, done := true, pending := none
          err := true, errcode := .badOperand, errinfo := w
          result := if opcOf w = 0x31#8 ∨ opcOf w = 0x33#8 ∨ opcOf w = 0x34#8
                    then ⟨0#8, false, false⟩ else s.result })

/-! ### The step -/

/-- A step in which a pending command begins, with `rst` released (R240), is that command's execution: nothing
stands around it (R90). Whose turn it is, is the model's choice (log entry 3). -/
def Obligations.StepRunsDecodedCommand : Prop :=
  ∀ (s : State) (w : Word) (i : Instr),
    s.rst = false → s.busy = true → s.pending = some w → s.progress = .start → hostFirst s = false →
    decode w = .ok i →
    step s = exec i s

/-- When it is not the core's turn (log entry 3) the step is the host's, and no step of the machine stops it. The
host's step is its next move, but for a push on offer under a standing plan (R97 `SINKFAIL k`: the k-th push from
there is answered IOERR and all others OK; log entry 4): that push is answered, unless the next move is eager. -/
def Obligations.StepIsCoreOrHostMove : Prop :=
  (∀ s : State, coreTurn s = false → step s = .next (hostStep s)) ∧
  (∀ s : State, coreTurn s = true → step s = coreStep s) ∧
  (∀ s : State, ∃ t, step s = .next t) ∧
  (∀ (s : State) (k : Nat), perform (.sinkFail k) s = { s with sink := some k, answers := [] }) ∧
  (∀ (s : State) (k : Nat) (b : Byte),
    s.sink = some k → offeredByte s = some b → s.reply = none → hostFirst s = false →
    hostStep s =
      if k = 1 then { s with sink := some 0, reply := some .ioerr }
      else { s with sink := some (k - 1), reply := some .ok, output := s.output ++ [b] }) ∧
  ∀ s : State, s.sink = none ∨ offeredByte s = none ∨ s.reply ≠ none ∨ hostFirst s = true →
    hostStep s =
      match s.host with
      | [] => s
      | m :: rest => perform m.act { s with host := rest }

/-! ### Completion and error entry -/

/-- Completion (R215) and error entry (R213), in full: what they write, and that they write nothing else.
`progress` is the model's own field (log entry 2). -/
def Obligations.CompletionAndErrorEntryEffects : Prop :=
  (∀ s : State, complete s =
    { s with busy := false, done := true, pending := none, progress := .start }) ∧
  ∀ (w : Word) (c : ErrCode) (info : Word) (s : State), errorEntry w c info s =
    { s with
      result := if w.extractLsb' 24 8 = 0x31#8 ∨ w.extractLsb' 24 8 = 0x33#8 ∨ w.extractLsb' 24 8 = 0x34#8
                then ⟨0#8, false, false⟩ else s.result
      err := true, errcode := c, errinfo := info
      busy := false, done := true, pending := none, progress := .start }

/-- ERR is set by the error entry of the pending command and by nothing else (R210, R213): a step after which
ERR is newly 1 ends PENDING by an error entry with a code that is not 0x00. -/
def Obligations.ErrIsSetByErrorEntryOnly : Prop :=
  ∀ s t : State, step s = .next t → s.err = false → t.err = true →
    ∃ (w : Word) (c : ErrCode) (info : Word) (u : State),
      s.busy = true ∧ s.pending = some w ∧ c ≠ .none ∧ t = errorEntry w c info u

/-- Which errors a command may end with (R211 "raised by"), and ERRINFO's value for each of them (R212), whether
the command ran through or waited in between. -/
def Obligations.ErrorCodesAndInfoOfEachCommand : Prop :=
  ∀ (s t : State) (i : Instr), Inv s → s.busy = true → s.pending = some (encode i) → i.wf = true →
    coreStep s = .next t → t.err = true →
    t.errcode ∈ mayRaise i ∧ t.errcode ≠ .badOperand ∧ errorInfoStands i s t

/-- Checks 3 to 5 of R214 in their order: NO_TREE, NO_CODES, NOT_OPEN, each with ERRINFO = the command word
and no effect but the error entry. -/
def Obligations.PreconditionErrors : Prop :=
  ∀ s : State,
    (s.treeValid = false →
      exec .gencodes s = .next (errorEntry 0x11000000#32 .noTree 0x11000000#32 s) ∧
      exec .decsym s = .next (errorEntry 0x33000000#32 .noTree 0x33000000#32 s) ∧
      exec .dec s = .next (errorEntry 0x34000000#32 .noTree 0x34000000#32 s)) ∧
    (s.codesValid = false →
      exec .enc s = .next (errorEntry 0x24000000#32 .noCodes 0x24000000#32 s) ∧
      ∀ sym : BitVec 8, exec (.encb sym) s =
        .next (errorEntry (0x23000000#32 ||| sym.setWidth 32) .noCodes (0x23000000#32 ||| sym.setWidth 32) s)) ∧
    (s.brOpen = false →
      exec .brbit s = .next (errorEntry 0x31000000#32 .notOpen 0x31000000#32 s) ∧
      exec .brsym s = .next (errorEntry 0x32000000#32 .notOpen 0x32000000#32 s) ∧
      (s.treeValid = true →
        exec .decsym s = .next (errorEntry 0x33000000#32 .notOpen 0x33000000#32 s)))

/-! ### Control and histogram commands -/

/-- NOP (R200): the word; no effect but completion; BAD_OPERAND with the command word when OPD ≠ 0; refused
while BUSY = 1 or ERR = 1 like every command; its completion raises the IRQ when IE = 1. -/
def Obligations.NopOnlyCompletes : Prop :=
  encode .nop = 0x00000000#32 ∧ decode 0x00000000#32 = .ok .nop ∧
  (∀ s : State, exec .nop s =
    .next { s with busy := false, done := true, pending := none, progress := .start }) ∧
  (∀ (s : State) (w : Word), opcOf w = 0x00#8 → opdOf w ≠ 0#24 →
    s.rst = false → s.busy = true → s.pending = some w → s.progress = .start → hostFirst s = false →
    step s = .next (errorEntry w .badOperand w s)) ∧
  (∀ s : State, s.busy = true ∨ s.err = true →
    writeReg .cmd 0x00000000#32 s = { s with rej := true }) ∧
  ∀ s t : State, exec .nop s = .next t → t.irq = s.ie

/-- HCLR (R110): every counter 0, TREE_VALID and CODES_VALID 0, nothing else but completion. -/
def Obligations.HclrClearsHistogram : Prop :=
  encode .hclr = 0x01000000#32 ∧
  ∀ s : State, ∃ t, exec .hclr s = .next t ∧ (∀ b : Byte, t.histAt b = 0#32) ∧
    t = { s with
      hist := t.hist, treeValid := false, codesValid := false
      busy := false, done := true, pending := none, progress := .start }

/-- HCNT (R111, R112): over a stream up to END every counter grows by the occurrences of its byte; an IOERR
or a byte whose counter is full ends it with what was counted before kept and the rest of the stream
queued; with no item left it waits in its Pull. -/
def Obligations.HcntCountsTheStream : Prop :=
  encode .hcnt = 0x02000000#32 ∧
  ∀ (s : State) (bytes : List Byte) (q : List InItem), countsFit s.hist bytes →
    let t := { s with
      treeValid := false, codesValid := false, hist := countedHist s.hist bytes, input := q }
    (s.input = asItems bytes ++ .eos :: q → exec .hcnt s = .next (complete t)) ∧
    (s.input = asItems bytes ++ .ioerr :: q →
      exec .hcnt s = .next (errorEntry 0x02000000#32 .underlyingIo 0#32 t)) ∧
    (∀ b : Byte, s.input = asItems bytes ++ .byte b :: q → t.histAt b = 0xFFFFFFFF#32 →
      exec .hcnt s = .next (errorEntry 0x02000000#32 .countOverflow (b.setWidth 32) t)) ∧
    (s.input = asItems bytes → waitsInPull (exec .hcnt s) { t with input := [] })

/-- After HCLR and HCNT over a stream of L bytes that takes no counter past its cap, whatever L is, the counters
sum to L (R111, R112, HC §8 "Histogram conservation"). -/
def Obligations.HistogramConservation : Prop :=
  ∀ (s u : State) (bytes : List Byte) (q : List InItem),
    s.input = asItems bytes ++ .eos :: q → countsFit (Vector.replicate 256 0#32) bytes → exec .hclr s = .next u →
    ∃ t, exec .hcnt u = .next t ∧ t.busy = false ∧ t.err = s.err ∧ t.input = q ∧
      (t.hist.toList.map BitVec.toNat).sum = bytes.length

/-- FRQOUT (R70, R113): the 1024 bytes of the table, big-endian; a push answered IOERR ends it with the bytes
before it delivered; an unanswered one makes it wait there, that byte on offer. -/
def Obligations.FrqoutWritesTheTable : Prop :=
  encode .frqout = 0x03000000#32 ∧
  ∀ s : State,
    (sinkAccepts 1024 s → exec .frqout s = .next (complete (delivered (tableBytes s.hist) s))) ∧
    ∀ k : Nat, k < 1024 →
      let u := { s with output := s.output ++ (tableBytes s.hist).take k }
      (∀ rest, s.answers = List.replicate k .ok ++ .ioerr :: rest →
        exec .frqout s =
          .next (errorEntry 0x03000000#32 .underlyingIo 1#32 { u with answers := rest })) ∧
      (s.answers = List.replicate k .ok →
        waitsInPush (exec .frqout s) ((tableBytes s.hist).getD k 0#8) { u with answers := [] })

/-- FRQIN (R70, R114): 1024 bytes into the counters, the rest of the stream queued; END or IOERR before that
ends it, MALFORMED_HEADER with the bytes received, the counters whose four bytes arrived loaded; with no item
left it waits in its Pull. -/
def Obligations.FrqinReadsTheTable : Prop :=
  encode .frqin = 0x04000000#32 ∧
  ∀ (s : State) (bytes : List Byte) (q : List InItem),
    let t := { s with
      treeValid := false, codesValid := false, hist := loadedHist s.hist bytes, input := q }
    (bytes.length = 1024 → s.input = asItems bytes ++ q → exec .frqin s = .next (complete t)) ∧
    (bytes.length < 1024 → s.input = asItems bytes ++ .eos :: q →
      exec .frqin s =
        .next (errorEntry 0x04000000#32 .malformedHeader (BitVec.ofNat 32 bytes.length) t)) ∧
    (bytes.length < 1024 → s.input = asItems bytes ++ .ioerr :: q →
      exec .frqin s = .next (errorEntry 0x04000000#32 .underlyingIo 0#32 t)) ∧
    (bytes.length < 1024 → s.input = asItems bytes →
      waitsInPull (exec .frqin s) { t with input := [] })

/-! ### The tree and the code table -/

/-- BUILD (R130, R140): never fails, records the tree of HIST, which depends on HIST alone, and sets the two
valid bits; NDIST and TOTAL are the count and the sum of R140. GENCODES (R141): under TREE_VALID the code
table of that tree and CODES_VALID, nothing else but completion. -/
def Obligations.BuildAndGencodesRecord : Prop :=
  encode .build = 0x10000000#32 ∧
  (∀ s : State, exec .build s = .next (complete
    { s with codesValid := false, tree := Tree.ofHist s.hist, treeValid := true })) ∧
  (∀ hist : Vector Word 256,
    (Tree.ofHist hist).ndist.toNat = (occurring hist).length ∧
    (Tree.ofHist hist).total.toNat = (hist.toList.map BitVec.toNat).sum) ∧
  encode .gencodes = 0x11000000#32 ∧
  ∀ s : State, s.treeValid = true →
    exec .gencodes s = .next (complete { s with code := codesOf s.tree, codesValid := true })

/-- The trees for no symbol and for one symbol (R131). -/
def Obligations.TreesOfZeroAndOneSymbol : Prop :=
  (∀ hist : Vector Word 256, occurring hist = [] →
    (Tree.ofHist hist).nnodes = 0#10 ∧ (Tree.ofHist hist).root = none) ∧
  ∀ (hist : Vector Word 256) (sym : Byte), occurring hist = [sym] →
    let w := (countOf hist sym).setWidth 40
    (Tree.ofHist hist).nodeAt 0 = .leaf sym w ∧ (Tree.ofHist hist).nodeAt 1 = .internal w 0 none ∧
    (Tree.ofHist hist).nnodes = 2#10 ∧ (Tree.ofHist hist).root = some 1

/-- The leaves occupy the first slots in ascending symbol order (R132). -/
def Obligations.LeavesInSymbolOrder : Prop :=
  ∀ (hist : Vector Word 256) (j : NodeIx) (h : j.val < (occurring hist).length),
    (Tree.ofHist hist).nodeAt j =
      .leaf (occurring hist)[j.val] ((countOf hist (occurring hist)[j.val]).setWidth 40)

/-- The greedy merges (R133, R134, R135): with n ≥ 2 symbols there are 2n - 1 nodes and the last is the root;
each node from n on joins the two nodes that precede every other node then in the structure, the first as
its left child, the second as its right, its weight their sum. -/
def Obligations.MergesTakeTheTwoLightest : Prop :=
  ∀ hist : Vector Word 256, 2 ≤ (occurring hist).length →
    let n := (occurring hist).length
    let t := Tree.ofHist hist
    t.nnodes.toNat = 2 * n - 1 ∧ (∃ r : NodeIx, t.root = some r ∧ r.val = 2 * n - 2) ∧
    ∀ k : NodeIx, n ≤ k.val → k.val < 2 * n - 1 →
      ∃ a b : NodeIx, a ≠ b ∧ inStructure t k.val a ∧ inStructure t k.val b ∧
        t.nodeAt k = .internal ((t.nodeAt a).weight + (t.nodeAt b).weight) a (some b) ∧
        comesBefore t a b ∧
        ∀ j : NodeIx, inStructure t k.val j → j ≠ a → j ≠ b → comesBefore t b j

/-- NODE[ROOT].weight = TOTAL when there is a symbol (R40, R135, HC §8). -/
def Obligations.RootWeightIsTotal : Prop :=
  ∀ hist : Vector Word 256, occurring hist ≠ [] →
    ∃ r : NodeIx, (Tree.ofHist hist).root = some r ∧
      ((Tree.ofHist hist).nodeAt r).weight = (Tree.ofHist hist).total

/-- A symbol's code is the path from the root to its leaf (R136): reading it off the front of any bit string
gives the symbol and leaves the rest; a symbol that does not occur has no code. -/
def Obligations.CodesArePathsToLeaves : Prop :=
  ∀ (hist : Vector Word 256) (sym : Byte),
    let t := Tree.ofHist hist
    (countOf hist sym = 0#32 → t.codeOf sym = []) ∧
    (countOf hist sym ≠ 0#32 → t.codeOf sym ≠ [] ∧
      ∃ r, t.root = some r ∧ ∀ rest, t.readSymbol r (t.codeOf sym ++ rest) = some (sym, rest))

/-- Code lengths (R136): 1 for the only symbol, and 1 to n - 1 for n ≥ 2 symbols, so never above 255. -/
def Obligations.CodeLengthBounds : Prop :=
  ∀ (hist : Vector Word 256) (sym : Byte), sym ∈ occurring hist →
    let len := ((Tree.ofHist hist).codeOf sym).length
    1 ≤ len ∧ ((occurring hist).length = 1 → len = 1) ∧
      (2 ≤ (occurring hist).length → len ≤ (occurring hist).length - 1)

/-- No code begins with another symbol's code (R137). -/
def Obligations.CodesArePrefixFree : Prop :=
  ∀ (hist : Vector Word 256) (a b : Byte), a ∈ occurring hist → b ∈ occurring hist → a ≠ b →
    ¬((Tree.ofHist hist).codeOf a <+: (Tree.ofHist hist).codeOf b)

/-- The entropy coder is lossless (HC §8 "Round-trip"): the codes of any bytes that HIST can count, however
many, whatever padding follows, decode by the tree of the same HIST to the same bytes. -/
def Obligations.CodesOfAnyBytesDecodeToThem : Prop :=
  ∀ (bytes : List Byte) (padding : List Bool), countsFit (Vector.replicate 256 0#32) bytes →
    let t := Tree.ofHist (countedHist (Vector.replicate 256 0#32) bytes)
    t.total.toNat = bytes.length ∧
    t.readSymbols t.total.toNat
        (bytes.flatMap t.codeOf ++ padding) =
      some (bytes, padding)

/-! ### The BitWriter and the encoder -/

/-- BWBIT (R150, R153): the operand check; the bit enters below; the eighth bit completes a byte, which is
pushed with the writer emptied, and the command waits while the push is unanswered. -/
def Obligations.BwbitWritesOneBit : Prop :=
  encode (.bwbit 0#8) = 0x20000000#32 ∧ encode (.bwbit 1#8) = 0x20000001#32 ∧
  ∀ (s : State) (val : BitVec 8),
    (2 ≤ val.toNat → exec (.bwbit val) s =
      .next (errorEntry (0x20000000#32 ||| val.setWidth 32) .badOperand (0x20000000#32 ||| val.setWidth 32) s)) ∧
    (val.toNat < 2 →
      let acc : Byte := BitVec.ofNat 8 (2 * s.bwAcc.toNat + val.toNat)
      (∀ n : Fin 8, n.val = s.bwNbits.val + 1 →
        exec (.bwbit val) s = .next (complete { s with bwAcc := acc, bwNbits := n })) ∧
      (s.bwNbits = 7 →
        (s.answers = [] → exec (.bwbit val) s =
          .next { s with bwAcc := 0#8, bwNbits := 0, progress := .write false acc [] }) ∧
        (∀ rest, s.answers = .ok :: rest → exec (.bwbit val) s =
          .next (complete { s with
            bwAcc := 0#8, bwNbits := 0, output := s.output ++ [acc], answers := rest })) ∧
        ∀ rest, s.answers = .ioerr :: rest → exec (.bwbit val) s =
          .next (errorEntry (0x20000000#32 ||| val.setWidth 32) .underlyingIo 1#32
            { s with bwAcc := 0#8, bwNbits := 0, answers := rest })))

/-- BWCODE (R93, R154, R158): the operand check; the LEN bits are written from BITS[LEN - 1] down to BITS[0];
a push answered IOERR ends it with the bytes before that push delivered and the writer empty; an unanswered one
makes it wait there, that byte on offer. -/
def Obligations.BwcodeWritesItsBits : Prop :=
  ∀ (s : State) (len : BitVec 5) (bits : BitVec 16),
    let word : Word := 0x21000000#32 ||| (len.setWidth 32 <<< 16) ||| bits.setWidth 32
    let string := (List.range len.toNat).map fun k => bits.getLsbD (len.toNat - 1 - k)
    (¬(len.toNat ≤ 16 ∧ bits.toNat < 2 ^ len.toNat) →
      exec (.bwcode len bits) s = .next (errorEntry word .badOperand word s)) ∧
    (len.toNat ≤ 16 → bits.toNat < 2 ^ len.toNat → writerClean s →
      (sinkAccepts (bitsPushes string s) s →
        exec (.bwcode len bits) s = .next (complete (afterBits string s))) ∧
      ∀ k : Nat, k < bitsPushes string s →
        (∀ rest, s.answers = List.replicate k .ok ++ .ioerr :: rest →
          exec (.bwcode len bits) s =
            .next (errorEntry word .underlyingIo 1#32 (untilPush string k rest s))) ∧
        (s.answers = List.replicate k .ok →
          waitsInPush (exec (.bwcode len bits) s) (pushedByte string k s) (untilPush string k [] s)))

/-- BWCLOSE (R151, R155): pending bits go out as one byte padded with zeros below them; with none nothing is
pushed; the writer ends empty; a failed push raises UNDERLYING_IO, info 1. -/
def Obligations.BwcloseFlushesThePaddedByte : Prop :=
  encode .bwclose = 0x22000000#32 ∧
  ∀ s : State,
    (s.bwNbits = 0 → exec .bwclose s = .next (complete s)) ∧
    (s.bwNbits ≠ 0 →
      let v : Byte := BitVec.ofNat 8 (s.bwAcc.toNat * 2 ^ (8 - s.bwNbits.val))
      (s.answers = [] → exec .bwclose s =
        .next { s with bwAcc := 0#8, bwNbits := 0, progress := .close v }) ∧
      (∀ rest, s.answers = .ok :: rest → exec .bwclose s =
        .next (complete { s with
          bwAcc := 0#8, bwNbits := 0, output := s.output ++ [v], answers := rest })) ∧
      ∀ rest, s.answers = .ioerr :: rest → exec .bwclose s =
        .next (errorEntry 0x22000000#32 .underlyingIo 1#32
          { s with bwAcc := 0#8, bwNbits := 0, answers := rest }))

/-- ENCB (R152, R156, R158): a symbol without a code raises NO_CODE with nothing written; otherwise the bits of
its code are written; a push answered IOERR ends it with the bytes before that push delivered and the
writer empty; an unanswered one makes it wait there, that byte on offer. -/
def Obligations.EncbWritesTheCode : Prop :=
  ∀ (s : State) (sym : BitVec 8), s.codesValid = true →
    (s.codeAt sym = [] → exec (.encb sym) s =
      .next (errorEntry (0x23000000#32 ||| sym.setWidth 32) .noCode (sym.setWidth 32) s)) ∧
    (s.codeAt sym ≠ [] → writerClean s →
      (sinkAccepts (bitsPushes (s.codeAt sym) s) s →
        exec (.encb sym) s = .next (complete (afterBits (s.codeAt sym) s))) ∧
      ∀ k : Nat, k < bitsPushes (s.codeAt sym) s →
        (∀ rest, s.answers = List.replicate k .ok ++ .ioerr :: rest →
          exec (.encb sym) s = .next (errorEntry (0x23000000#32 ||| sym.setWidth 32) .underlyingIo 1#32
            (untilPush (s.codeAt sym) k rest s))) ∧
        (s.answers = List.replicate k .ok →
          waitsInPush (exec (.encb sym) s) (pushedByte (s.codeAt sym) k s)
            (untilPush (s.codeAt sym) k [] s)))

/-- ENC (R157, R158): the codes of the stream's bytes, one after another, up to END; the writer is not closed. A
byte without a code or an IOERR item ends it with the bits before it written and the rest queued; a push
answered IOERR ends it at the byte `b` being encoded, with the bytes before that push delivered, the writer
empty and what follows `b` queued. It waits in its Pull when no item is left, and in an unanswered push. -/
def Obligations.EncWritesTheCodesOfTheStream : Prop :=
  encode .enc = 0x24000000#32 ∧
  ∀ (s : State) (bytes : List Byte) (q : List InItem),
    s.codesValid = true → (∀ b ∈ bytes, s.codeAt b ≠ []) → writerClean s →
    (let bits := bytes.flatMap s.codeAt
     let t := { afterBits bits s with input := q }
     sinkAccepts (bitsPushes bits s) s →
     (s.input = asItems bytes ++ .eos :: q → exec .enc s = .next (complete t)) ∧
     (s.input = asItems bytes ++ .ioerr :: q →
       exec .enc s = .next (errorEntry 0x24000000#32 .underlyingIo 0#32 t)) ∧
     (∀ b : Byte, s.input = asItems bytes ++ .byte b :: q → s.codeAt b = [] →
       exec .enc s = .next (errorEntry 0x24000000#32 .noCode (b.setWidth 32) t)) ∧
     (s.input = asItems bytes → waitsInPull (exec .enc s) { t with input := [] })) ∧
    ∀ (b : Byte) (k : Nat), s.codeAt b ≠ [] → s.input = asItems bytes ++ .byte b :: q →
      let bits := (bytes ++ [b]).flatMap s.codeAt
      bitsPushes (bytes.flatMap s.codeAt) s ≤ k → k < bitsPushes bits s →
      (∀ rest, s.answers = List.replicate k .ok ++ .ioerr :: rest →
        exec .enc s = .next (errorEntry 0x24000000#32 .underlyingIo 1#32
          { untilPush bits k rest s with input := q })) ∧
      (s.answers = List.replicate k .ok →
        waitsInPush (exec .enc s) (pushedByte bits k s) { untilPush bits k [] s with input := q })

/-- Sink failure (R158): when a push of a BitWriter command is answered IOERR the byte is lost, the writer is
empty, and the command has ended with UNDERLYING_IO, info 1, at that push. -/
def Obligations.SinkFailureEmptiesTheWriter : Prop :=
  ∀ (s t : State) (i : Instr), i.opc ∈ [0x20#8, 0x21#8, 0x22#8, 0x23#8, 0x24#8] → s.err = false →
    exec i s = .next t → t.err = true → t.errcode = .underlyingIo → t.errinfo = 1#32 →
    t.bwAcc = 0#8 ∧ t.bwNbits = 0 ∧
    ∃ k rest, s.answers = List.replicate k .ok ++ .ioerr :: rest ∧ t.answers = rest ∧
      t.output.length = s.output.length + k

/-! ### The BitReader and the decoder -/

/-- BROPEN (R180): the reader emptied and open; nothing pulled, BUDGET kept, nothing else but completion. -/
def Obligations.BropenOpensAnEmptyReader : Prop :=
  encode .bropen = 0x30000000#32 ∧
  ∀ s : State, exec .bropen s =
    .next { s with
      brBuf := 0#8, brNleft := 0, brOpen := true
      busy := false, done := true, pending := none, progress := .start }

/-- BRBIT (R170, R181): NOT_OPEN for a closed reader; EXH when the budget is zero, whatever the buffer holds; else the next bit, from a
fresh byte's bit 7 when the buffer is empty; END is CORRUPT_BODY, IOERR is UNDERLYING_IO, and with no item
presented the command waits. -/
def Obligations.BrbitReadsOneBit : Prop :=
  encode .brbit = 0x31000000#32 ∧
  (∀ s : State, s.brOpen = false →
    exec .brbit s = .next (errorEntry 0x31000000#32 .notOpen 0x31000000#32 s)) ∧
  ∀ s : State, s.brOpen = true →
    (s.budget = 0#40 → exec .brbit s = .next (complete { s with result := ⟨0#8, true, true⟩ })) ∧
    (s.budget ≠ 0#40 →
      (∀ n : Fin 9, n.val + 1 = s.brNleft.val → exec .brbit s = .next (complete { s with
        brNleft := n
        result := ⟨(BitVec.ofBool (s.brBuf.getLsbD n.val)).setWidth 8, false, true⟩ })) ∧
      (s.brNleft = 0 →
        (s.input = [] → exec .brbit s = .next { s with progress := .brbit }) ∧
        (∀ (v : Byte) (q : List InItem), s.input = .byte v :: q →
          exec .brbit s = .next (complete { s with
            brBuf := v, brNleft := 7, input := q
            result := ⟨(BitVec.ofBool (v.getLsbD 7)).setWidth 8, false, true⟩ })) ∧
        (∀ q, s.input = .eos :: q → exec .brbit s =
          .next (errorEntry 0x31000000#32 .corruptBody (s.budget.extractLsb' 0 32)
            { s with input := q })) ∧
        ∀ q, s.input = .ioerr :: q → exec .brbit s =
          .next (errorEntry 0x31000000#32 .underlyingIo 0#32 { s with input := q })))

/-- BRSYM (R171, R182): BUDGET down by one; at zero BUDGET_UNDERFLOW with BUDGET kept; a closed reader is
NOT_OPEN; nothing else changes. -/
def Obligations.BrsymCountsOneSymbol : Prop :=
  encode .brsym = 0x32000000#32 ∧
  ∀ s : State,
    (s.brOpen = false →
      exec .brsym s = .next (errorEntry 0x32000000#32 .notOpen 0x32000000#32 s)) ∧
    (s.brOpen = true → s.budget = 0#40 →
      exec .brsym s = .next (errorEntry 0x32000000#32 .budgetUnderflow 0x32000000#32 s)) ∧
    ∀ g : Weight, s.brOpen = true → g.toNat + 1 = s.budget.toNat →
      exec .brsym s = .next (complete { s with budget := g })

/-- DECSYM (R172, R183). EXH at budget zero with nothing read; MISSING_CHILD without a root. A symbol whose path
the next bits are is pushed, counted and put in RESULT; its push answered IOERR leaves BUDGET unchanged and
delivers nothing, and unanswered makes the command wait with the symbol on offer. A missing child is
MISSING_CHILD with the node's index, the bits before it consumed. Where the bits end inside the walk, END is
CORRUPT_BODY with BUDGET[31:0], IOERR is UNDERLYING_IO, and with no item left the command waits. No byte is
pulled beyond the one that holds the last bit needed. -/
def Obligations.DecsymDecodesOneSymbol : Prop :=
  encode .decsym = 0x33000000#32 ∧
  ∀ s : State, s.treeValid = true → s.brOpen = true →
    (s.budget = 0#40 → exec .decsym s = .next (complete { s with result := ⟨0#8, true, true⟩ })) ∧
    (s.budget ≠ 0#40 → s.tree.root = none →
      exec .decsym s = .next (errorEntry 0x33000000#32 .missingChild 0xFFFFFFFF#32 s)) ∧
    ∀ (r : NodeIx) (bytes : List Byte) (q : List InItem),
      s.tree.root = some r → s.budget ≠ 0#40 →
      let bits := readerBits s ++ bytes.flatMap byteBits
      (∀ (sym : Byte) (left : List Bool) (n : Fin 9), s.input = asItems bytes ++ q →
        s.tree.readSymbol r bits = some (sym, left) → left.length < 8 → n.val = left.length →
        let u := readAway bytes n q s
        (∀ (g : Weight) (rest : List Answer), g.toNat + 1 = s.budget.toNat → s.answers = .ok :: rest →
          exec .decsym s = .next (complete { u with
            budget := g, output := s.output ++ [sym], answers := rest, result := ⟨sym, false, true⟩ })) ∧
        (∀ rest, s.answers = .ioerr :: rest →
          exec .decsym s =
            .next (errorEntry 0x33000000#32 .underlyingIo 1#32 { u with answers := rest })) ∧
        (s.answers = [] → waitsInPush (exec .decsym s) sym u)) ∧
      (∀ (before : List Bool) (b : Bool) (left : List Bool) (cur : NodeIx) (n : Fin 9),
        s.input = asItems bytes ++ q → bits = before ++ b :: left → left.length < 8 →
        n.val = left.length → s.tree.descend r before = some cur →
        (s.tree.nodeAt cur).child b = none →
        exec .decsym s = .next (errorEntry 0x33000000#32 .missingChild (BitVec.ofNat 32 cur.val)
          (readAway bytes n q s))) ∧
      ∀ cur : NodeIx, s.tree.descend r bits = some cur →
        (s.input = asItems bytes ++ .eos :: q →
          exec .decsym s = .next (errorEntry 0x33000000#32 .corruptBody (s.budget.extractLsb' 0 32)
            (readAway bytes 0 q s))) ∧
        (s.input = asItems bytes ++ .ioerr :: q →
          exec .decsym s =
            .next (errorEntry 0x33000000#32 .underlyingIo 0#32 (readAway bytes 0 q s))) ∧
        (s.input = asItems bytes → waitsInPull (exec .decsym s) (readAway bytes 0 [] s))

/-- DEC (R172, R184): TOTAL symbols are read off the bits of the stream, pushed in order, and BUDGET ends 0; no
byte is pulled beyond the one that holds the last bit, so END and trailing bytes stay queued; TOTAL = 0 pulls
and pushes nothing. The push of symbol `m` answered IOERR ends it with the `m` symbols before it delivered and
BUDGET = TOTAL - m, that symbol not counted; unanswered it makes the command wait. A missing child after `m`
symbols is MISSING_CHILD with the node's index. A tree without a root asked for symbols is MISSING_CHILD with
0xFFFFFFFF. -/
def Obligations.DecDecodesTheBody : Prop :=
  encode .dec = 0x34000000#32 ∧
  ∀ s : State, s.treeValid = true →
    (s.tree.total ≠ 0#40 → s.tree.root = none →
      exec .dec s = .next (errorEntry 0x34000000#32 .missingChild 0xFFFFFFFF#32
        { s with budget := s.tree.total, brBuf := 0#8, brNleft := 0, brOpen := true })) ∧
    ∀ (bytes : List Byte) (q : List InItem) (left : List Bool) (n : Fin 9),
      s.input = asItems bytes ++ q → left.length < 8 → n.val = left.length →
      let u := { s with
        brBuf := bytes.getLastD 0#8, brNleft := n, brOpen := true, input := q }
      (∀ syms : List Byte, sinkAccepts s.tree.total.toNat s →
        s.tree.readSymbols s.tree.total.toNat (bytes.flatMap byteBits) = some (syms, left) →
        exec .dec s = .next (complete { u with
          budget := 0#40, output := s.output ++ syms, answers := s.answers.drop syms.length
          result := ⟨0#8, true, true⟩ })) ∧
      ∀ (m : Nat) (syms : List Byte), m < s.tree.total.toNat →
        let v := { u with
          budget := BitVec.ofNat 40 (s.tree.total.toNat - m), output := s.output ++ syms.take m }
        (s.tree.readSymbols (m + 1) (bytes.flatMap byteBits) = some (syms, left) →
          (∀ rest, s.answers = List.replicate m .ok ++ .ioerr :: rest →
            exec .dec s =
              .next (errorEntry 0x34000000#32 .underlyingIo 1#32 { v with answers := rest })) ∧
          (s.answers = List.replicate m .ok →
            waitsInPush (exec .dec s) (syms.getD m 0#8) { v with answers := [] })) ∧
        ∀ (r cur : NodeIx) (before : List Bool) (b : Bool), sinkAccepts m s →
          s.tree.readSymbols m (bytes.flatMap byteBits) = some (syms, before ++ b :: left) →
          s.tree.root = some r → s.tree.descend r before = some cur →
          (s.tree.nodeAt cur).child b = none →
          exec .dec s = .next (errorEntry 0x34000000#32 .missingChild (BitVec.ofNat 32 cur.val)
            { v with answers := s.answers.drop m })

/-- A body that ends too soon (R170, R184, HC §7 CorruptBody): when the bits end inside the walk for a symbol, `m`
< TOTAL symbols having been pushed, END is CORRUPT_BODY and IOERR is UNDERLYING_IO; BUDGET, and ERRINFO for
END, hold the number still owed. With no item left DEC waits there. -/
def Obligations.TruncatedBodyIsReported : Prop :=
  ∀ (s : State) (bytes syms : List Byte) (q : List InItem) (left : List Bool) (m : Nat) (r cur : NodeIx),
    s.treeValid = true → m < s.tree.total.toNat → sinkAccepts m s → s.tree.root = some r →
    s.tree.readSymbols m (bytes.flatMap byteBits) = some (syms, left) →
    s.tree.descend r left = some cur →
    let u := { delivered syms s with
      budget := BitVec.ofNat 40 (s.tree.total.toNat - m)
      brBuf := bytes.getLastD 0#8, brNleft := 0, brOpen := true, input := q }
    (s.input = asItems bytes ++ .eos :: q → exec .dec s =
      .next (errorEntry 0x34000000#32 .corruptBody (BitVec.ofNat 32 (s.tree.total.toNat - m)) u)) ∧
    (s.input = asItems bytes ++ .ioerr :: q →
      exec .dec s = .next (errorEntry 0x34000000#32 .underlyingIo 0#32 u)) ∧
    (s.input = asItems bytes → waitsInPull (exec .dec s) { u with input := [] })

/-- A bit 1 at the one-child node (R131, R172): MISSING_CHILD, ERRINFO = the node's index 1. DECSYM, on a bit still
held or on a fresh byte's bit 7, pushes nothing and leaves BUDGET unchanged; DEC, after `m` bits 0, has pushed the
symbol `m` times and leaves BUDGET = TOTAL - m. -/
def Obligations.OneChildNodeRejectsBitOne : Prop :=
  ∀ (s : State) (sym : Byte), occurring s.hist = [sym] → s.tree = Tree.ofHist s.hist → s.treeValid = true →
    (s.brOpen = true → s.budget ≠ 0#40 →
      (∀ n : Fin 9, s.brNleft.val = n.val + 1 → s.brBuf.getLsbD n.val = true →
        exec .decsym s = .next (errorEntry 0x33000000#32 .missingChild 1#32 { s with brNleft := n })) ∧
      ∀ (v : Byte) (q : List InItem), s.brNleft = 0 → s.input = .byte v :: q → v.getLsbD 7 = true →
        exec .decsym s = .next (errorEntry 0x33000000#32 .missingChild 1#32
          { s with brBuf := v, brNleft := 7, input := q })) ∧
    ∀ (bytes : List Byte) (q : List InItem) (m : Nat) (left : List Bool) (n : Fin 9),
      s.input = asItems bytes ++ q → m < (countOf s.hist sym).toNat → sinkAccepts m s →
      bytes.flatMap byteBits = List.replicate m false ++ true :: left → left.length < 8 →
      n.val = left.length →
      exec .dec s = .next (errorEntry 0x34000000#32 .missingChild 1#32
        { delivered (List.replicate m sym) s with
          budget := BitVec.ofNat 40 ((countOf s.hist sym).toNat - m)
          brBuf := bytes.getLastD 0#8, brNleft := n, brOpen := true, input := q })

/-- ISKIP (R185): items up to and including the first END are discarded; an IOERR ends it, consumed; with no item
left it waits; nothing else changes. -/
def Obligations.IskipDiscardsToEnd : Prop :=
  encode .iskip = 0x35000000#32 ∧
  ∀ (s : State) (bytes : List Byte) (q : List InItem),
    (s.input = asItems bytes ++ .eos :: q →
      exec .iskip s = .next (complete { s with input := q })) ∧
    (s.input = asItems bytes ++ .ioerr :: q →
      exec .iskip s = .next (errorEntry 0x35000000#32 .underlyingIo 0#32 { s with input := q })) ∧
    (s.input = asItems bytes → waitsInPull (exec .iskip s) { s with input := [] })

/-! ### Frames: what a command leaves unchanged, however it ends or waits -/

/-- The histogram commands HCLR, HCNT, FRQIN change HIST, TREE_VALID, CODES_VALID and the input queue; FRQOUT
changes the output and the answers; none changes anything else but the error and completion state. -/
def Obligations.FrameOfHistogramCommands : Prop :=
  ∀ (s t : State) (i : Instr), i ∈ [.hclr, .hcnt, .frqout, .frqin] → exec i s = .next t →
    t.rst = s.rst ∧ t.reply = s.reply ∧ t.sink = s.sink ∧ t.ie = s.ie ∧ t.rej = s.rej ∧
    t.brOpen = s.brOpen ∧ t.result = s.result ∧ t.tree = s.tree ∧
    t.code = s.code ∧ t.budget = s.budget ∧ t.bwAcc = s.bwAcc ∧ t.bwNbits = s.bwNbits ∧
    t.brBuf = s.brBuf ∧ t.brNleft = s.brNleft ∧ t.host = s.host ∧ t.readData = s.readData ∧
    t.draws = s.draws ∧
    (i ≠ .frqout → t.output = s.output ∧ t.answers = s.answers ∧
      t.treeValid = false ∧ t.codesValid = false) ∧
    (i = .hclr → t.input = s.input) ∧
    (i = .frqout → t.hist = s.hist ∧ t.input = s.input ∧ t.treeValid = s.treeValid ∧
      t.codesValid = s.codesValid)

/-- BUILD and GENCODES touch neither HIST, the BitWriter, the BitReader, BUDGET, RESULT nor the ports (R140,
R141); GENCODES leaves the tree and TREE_VALID, BUILD the code table. -/
def Obligations.FrameOfTreeCommands : Prop :=
  ∀ (s t : State) (i : Instr), i ∈ [.build, .gencodes] → exec i s = .next t →
    t.rst = s.rst ∧ t.reply = s.reply ∧ t.sink = s.sink ∧ t.ie = s.ie ∧ t.rej = s.rej ∧
    t.brOpen = s.brOpen ∧ t.result = s.result ∧ t.hist = s.hist ∧
    t.budget = s.budget ∧ t.bwAcc = s.bwAcc ∧ t.bwNbits = s.bwNbits ∧ t.brBuf = s.brBuf ∧
    t.brNleft = s.brNleft ∧ t.input = s.input ∧ t.answers = s.answers ∧ t.output = s.output ∧
    t.host = s.host ∧ t.readData = s.readData ∧ t.draws = s.draws ∧
    (i = .build → t.code = s.code) ∧ (i = .gencodes → t.tree = s.tree ∧ t.treeValid = s.treeValid)

/-- The BitWriter commands change the writer, the output and the answers, ENC also the input queue, and
nothing else but the error and completion state. -/
def Obligations.FrameOfWriterCommands : Prop :=
  ∀ (s t : State) (i : Instr), i.opc ∈ [0x20#8, 0x21#8, 0x22#8, 0x23#8, 0x24#8] →
    exec i s = .next t →
    t.rst = s.rst ∧ t.reply = s.reply ∧ t.sink = s.sink ∧ t.ie = s.ie ∧ t.rej = s.rej ∧
    t.treeValid = s.treeValid ∧ t.codesValid = s.codesValid ∧
    t.brOpen = s.brOpen ∧ t.result = s.result ∧ t.hist = s.hist ∧ t.tree = s.tree ∧
    t.code = s.code ∧ t.budget = s.budget ∧ t.brBuf = s.brBuf ∧ t.brNleft = s.brNleft ∧
    t.host = s.host ∧ t.readData = s.readData ∧ t.draws = s.draws ∧ (i ≠ .enc → t.input = s.input)

/-- NOP and the BitReader commands leave HIST, the tree, the codes, their valid bits and the BitWriter alone;
each leaves alone what its rule does not name. -/
def Obligations.FrameOfReaderCommands : Prop :=
  ∀ (s t : State) (i : Instr), i ∈ [.nop, .bropen, .brbit, .brsym, .decsym, .dec, .iskip] →
    exec i s = .next t →
    t.rst = s.rst ∧ t.reply = s.reply ∧ t.sink = s.sink ∧ t.ie = s.ie ∧ t.rej = s.rej ∧
    t.treeValid = s.treeValid ∧ t.codesValid = s.codesValid ∧
    t.hist = s.hist ∧ t.tree = s.tree ∧ t.code = s.code ∧ t.bwAcc = s.bwAcc ∧
    t.bwNbits = s.bwNbits ∧ t.host = s.host ∧ t.readData = s.readData ∧ t.draws = s.draws ∧
    (i ≠ .bropen → i ≠ .dec → t.brOpen = s.brOpen) ∧
    (i ∈ [.nop, .bropen, .brbit, .brsym, .iskip] → t.output = s.output ∧ t.answers = s.answers) ∧
    (i ∈ [.nop, .bropen, .brsym] → t.input = s.input) ∧
    (i ∈ [.nop, .brsym, .iskip] → t.brBuf = s.brBuf ∧ t.brNleft = s.brNleft) ∧
    (i ∈ [.nop, .bropen, .brbit, .iskip] → t.budget = s.budget) ∧
    (i ∈ [.nop, .bropen, .brsym, .iskip] → t.result = s.result)

/-! ### Whole-machine rules -/

/-- The invariant holds after reset. -/
def Obligations.ResetMeetsTheInvariant : Prop := Inv State.reset

/-- Every step keeps the invariant, the core's and the host's. Its clauses on `progress` are the model's own
(log entry 2). -/
def Obligations.StepKeepsTheInvariant : Prop :=
  ∀ s t : State, Inv s → step s = .next t → Inv t

/-- Every change of HIST leaves TREE_VALID and CODES_VALID 0; nothing but a change of HIST or a reset clears
TREE_VALID, and nothing but these and BUILD clears CODES_VALID (R39). -/
def Obligations.HistogramChangeInvalidates : Prop :=
  ∀ s t : State, Inv s → step s = .next t →
    (t.hist ≠ s.hist → t.treeValid = false ∧ t.codesValid = false) ∧
    let runs (opcs : List (BitVec 8)) : Prop :=
      coreTurn s = true ∧ ∃ w, s.pending = some w ∧ opcOf w ∈ opcs
    let hostClears : Prop :=
      coreTurn s = false ∧ ∃ m rest, s.host = m :: rest ∧
        (m.act = .assertReset ∨
          (∃ a v, m.act = .write a v ∧ (Reg.ofAddr a = .ctrl ∧ v.getLsbD 1 = true ∨
            ∃ i, Reg.ofAddr a = .hist i)))
    (s.treeValid = true → t.treeValid = false → runs [0x01#8, 0x02#8, 0x04#8] ∨ hostClears) ∧
    (s.codesValid = true → t.codesValid = false → runs [0x01#8, 0x02#8, 0x04#8, 0x10#8] ∨ hostClears)

/-- "No command writes CTRL", and of STATUS no command writes REJ (R201); a command takes none of the host's
moves and draws no free value. -/
def Obligations.NoCommandWritesCtrl : Prop :=
  ∀ s t : State, coreStep s = .next t →
    t.rst = s.rst ∧ t.sink = s.sink ∧ t.ie = s.ie ∧ t.rej = s.rej ∧ t.host = s.host ∧ t.readData = s.readData ∧ t.draws = s.draws

/-- Waiting is transparent (R66, R67, R73): a command that waited at a port, and to which the host then presents
items and gives answers, goes on to exactly what it would have done had they been there from the start (log
entries 2 and 4). No answer is held over from an earlier push (`s.reply = none`, an invariant). -/
def Obligations.WaitingIsTransparent : Prop :=
  ∀ (i : Instr) (s t : State) (q : List InItem) (a : List Answer),
    s.busy = true → s.reply = none → s.pending = some (encode i) → exec i s = .next t → t.busy = true →
    coreStep (serve q a t) =
      exec i { s with input := s.input ++ q, answers := s.answers ++ a }

/-- Waiting (R37, R66, R67, R77). A command whose first Pull or Push finds its port unserved waits; and one that
waits, wherever in its pseudocode, has BUSY, DONE, ERR and PENDING as they were and an empty port, is held
while the host serves nothing (whose turn it is: log entry 3), and can move again as soon as the host presents an
item, for a Pull, or answers, for a Push. -/
def Obligations.UnservedPortHoldsTheCommand : Prop :=
  ∀ (s : State) (i : Instr), s.busy = true → s.done = false → s.reply = none →
    s.pending = some (encode i) →
    (meetsUnservedPort i s → ∃ t, exec i s = .next t ∧ t.progress ≠ .start ∧ t.busy = true) ∧
    ∀ t : State, exec i s = .next t → t.progress ≠ .start →
      t.busy = true ∧ t.done = false ∧ t.pending = s.pending ∧ t.err = s.err ∧
      coreTurn t = false ∧ step t = .next (hostStep t) ∧
      (if t.progress.inPush then
        t.answers = [] ∧ (s.rst = false → ∀ a, coreReady (perform (.answer a) t) = true)
      else t.input = [] ∧ (s.rst = false → ∀ it, coreReady (perform (.present it) t) = true))

/-! ### The register port -/

/-- CMD (R28): accepted when BUSY = 0 and ERR = 0, then PENDING latches the word, BUSY <- 1, DONE <- 0 and the
core executes it; otherwise refused, REJ <- 1 and no other change; reads return 0 between commands. -/
def Obligations.CmdWriteIsAcceptedOrRefused : Prop :=
  Reg.ofAddr (wordAddr 0x014#16) = .cmd ∧
  ∀ (s : State) (w : Word),
    (s.busy = false → s.err = false → writeReg .cmd w s =
      { s with pending := some w, progress := .start, busy := true, done := false }) ∧
    (s.rst = false → s.busy = false → s.err = false → hostFirst s = false → ∀ i, decode w = .ok i →
      step (writeReg .cmd w s) = exec i (writeReg .cmd w s)) ∧
    (s.busy = true ∨ s.err = true → writeReg .cmd w s = { s with rej := true }) ∧
    regValue .cmd s = 0#32

/-- STATUS (R25, R216): each bit where R25 puts it; a write clears DONE, REJ, and ERR with ERRCODE and
ERRINFO, by the bits written 1, and touches nothing else. -/
def Obligations.StatusReadsAndClears : Prop :=
  Reg.ofAddr (wordAddr 0x008#16) = .status ∧
  ∀ (s : State) (v : Word),
    (∀ k : Nat, (regValue .status s).getLsbD k =
      ([s.busy, s.done, s.err, s.rej, s.treeValid, s.codesValid, s.brOpen].getD k false)) ∧
    writeReg .status v s =
      { s with
        done := s.done && !v.getLsbD 1
        err := s.err && !v.getLsbD 2
        rej := s.rej && !v.getLsbD 3
        errcode := if v.getLsbD 2 then .none else s.errcode
        errinfo := if v.getLsbD 2 then 0#32 else s.errinfo }

/-- CTRL and the soft reset (R24, R41, R241, R242): bit 0 is IE; a write with bit 1 = 1 gives R41's values to
every element, IE among them, and leaves the items queued and the bytes delivered. -/
def Obligations.CtrlWriteAndReset : Prop :=
  Reg.ofAddr (wordAddr 0x004#16) = .ctrl ∧
  ∀ (s : State) (v : Word),
    regValue .ctrl s = (BitVec.ofBool s.ie).setWidth 32 ∧
    (v.getLsbD 1 = false → writeReg .ctrl v s = { s with ie := v.getLsbD 0 }) ∧
    (v.getLsbD 1 = true →
      let t := writeReg .ctrl v s
      t.ie = false ∧ t.busy = false ∧ t.done = false ∧ t.err = false ∧ t.rej = false ∧
      t.treeValid = false ∧ t.codesValid = false ∧ t.brOpen = false ∧ t.errcode = .none ∧
      t.errinfo = 0#32 ∧ t.pending = none ∧ t.result = ⟨0#8, false, false⟩ ∧
      (∀ b, t.histAt b = 0#32) ∧ t.tree.ndist = 0#9 ∧ t.tree.nnodes = 0#10 ∧ t.tree.root = none ∧
      t.tree.total = 0#40 ∧ t.budget = 0#40 ∧ t.bwAcc = 0#8 ∧ t.bwNbits = 0 ∧ t.brBuf = 0#8 ∧
      t.brNleft = 0 ∧ t.irq = false ∧ regValue .root t = 0x80000000#32 ∧
      t.input = s.input ∧ t.output = s.output ∧
      (s.rst = false → t = perform .releaseReset (perform .assertReset s)))

/-- HIST and BUDGET writes (R34, R39, R64): while BUSY ignored with REJ; else, whatever ERR is, the entry or
the mapped bits of BUDGET are replaced, a HIST write clearing TREE_VALID and CODES_VALID. -/
def Obligations.HistAndBudgetWrites : Prop :=
  ∀ (s : State) (i : Byte) (v : Word),
    (s.busy = true →
      writeReg (.hist i) v s = { s with rej := true } ∧
      writeReg .budgetLo v s = { s with rej := true } ∧
      writeReg .budgetHi v s = { s with rej := true }) ∧
    (s.busy = false →
      (∃ h : Vector Word 256, writeReg (.hist i) v s =
          { s with hist := h, treeValid := false, codesValid := false } ∧
        ∀ j : Byte, h[j.toNat]'j.isLt = if j = i then v else s.histAt j) ∧
      (∃ g : Weight, writeReg .budgetLo v s = { s with budget := g } ∧
        g.toNat = s.budget.toNat / 2 ^ 32 * 2 ^ 32 + v.toNat) ∧
      ∃ g : Weight, writeReg .budgetHi v s = { s with budget := g } ∧
        g.toNat = v.toNat % 256 * 2 ^ 32 + s.budget.toNat % 2 ^ 32)

/-- Register reads. No read changes anything of the core (R76). ID, CTRL and STATUS always return their value, every
other address its value between commands (R65); those values are R23, R24, R26 to R30 and R33 to R36's, with the
error codes numbered as in R211. That a read of another address while BUSY = 1 returns the next
`Config.freeRead` and counts it is the model's choice for R65's unspecified value (log entry 5); it holds for
every value `Config.freeRead` may take. -/
def Obligations.ReadsHaveNoSideEffect : Prop :=
  ∀ s : State,
    (∀ r : Reg,
      (∃ x n, readReg r s = { s with readData := x, draws := n }) ∧
      (s.busy = false ∨ r = .id ∨ r = .ctrl ∨ r = .status →
        (readReg r s).readData = regValue r s) ∧
      (s.busy = true → r ≠ .id → r ≠ .ctrl → r ≠ .status →
        (readReg r s).readData = Config.freeRead s.draws ∧ (readReg r s).draws = s.draws + 1)) ∧
    regValue .id s = 0x48554631#32 ∧
    (regValue .ctrl s).toNat = s.ie.toNat ∧
    (regValue .errcode s).toNat =
      (match s.errcode with
        | .none => 0x00 | .malformedHeader => 0x01 | .corruptBody => 0x02 | .underlyingIo => 0x04
        | .illegalCmd => 0x10 | .badOperand => 0x11 | .noTree => 0x12 | .noCodes => 0x13
        | .notOpen => 0x14 | .noCode => 0x15 | .countOverflow => 0x16 | .missingChild => 0x17
        | .budgetUnderflow => 0x18) ∧
    regValue .errinfo s = s.errinfo ∧
    regValue .cmd s = 0#32 ∧
    (regValue .result s).toNat =
      s.result.value.toNat + 2 ^ 8 * s.result.exh.toNat + 2 ^ 9 * s.result.valid.toNat ∧
    (regValue .ndist s).toNat = s.tree.ndist.toNat ∧
    (regValue .nnodes s).toNat = s.tree.nnodes.toNat ∧
    (∀ j : NodeIx, s.tree.root = some j → (regValue .root s).toNat = j.val) ∧
    (s.tree.root = none → (regValue .root s).toNat = 2 ^ 31) ∧
    (regValue .totalLo s).toNat + 2 ^ 32 * (regValue .totalHi s).toNat = s.tree.total.toNat ∧
    (regValue .budgetLo s).toNat + 2 ^ 32 * (regValue .budgetHi s).toNat = s.budget.toNat ∧
    (regValue .bwState s).toNat = s.bwNbits.val + 2 ^ 8 * s.bwAcc.toNat ∧
    (regValue .brState s).toNat = s.brNleft.val + 2 ^ 8 * s.brBuf.toNat ∧
    ∀ i : Byte, regValue (.hist i) s = s.histAt i

/-- The register map (R62): the host's access to an address is the access to the register there (a write while
`rst` is released, R240); reserved addresses read 0, and writes to read-only registers, windows and reserved
addresses have no effect. -/
def Obligations.RegisterMap : Prop :=
  (∀ (addr : RegAddr) (s : State), perform (.read addr) s = readReg (Reg.ofAddr addr) s) ∧
  (∀ (addr : RegAddr) (v : Word) (s : State), s.rst = false →
    perform (.write addr v) s = writeReg (Reg.ofAddr addr) v s) ∧
  (∀ k : Fin 16, Reg.ofAddr (wordAddr (BitVec.ofNat 16 (4 * k.val))) =
    [Reg.id, .ctrl, .status, .errcode, .errinfo, .cmd, .result, .ndist, .nnodes, .root,
      .totalLo, .totalHi, .budgetLo, .budgetHi, .bwState, .brState][k.val]) ∧
  (∀ i : Byte, Reg.ofAddr (wordAddr (BitVec.ofNat 16 (0x400 + 4 * i.toNat))) = .hist i) ∧
  (∀ (j : BitVec 9) (w : BitVec 2),
    Reg.ofAddr (wordAddr (BitVec.ofNat 16 (0x2000 + 16 * j.toNat + 4 * w.toNat))) = .node j w) ∧
  (∀ (c : Byte) (w : BitVec 4),
    Reg.ofAddr (wordAddr (BitVec.ofNat 16 (0x4000 + 64 * c.toNat + 4 * w.toNat))) = .code c w) ∧
  (∀ a : BitVec 16,
    (0x40 ≤ a.toNat ∧ a.toNat < 0x400) ∨ (0x800 ≤ a.toNat ∧ a.toNat < 0x2000) ∨ 0x8000 ≤ a.toNat →
    Reg.ofAddr (wordAddr a) = .reserved) ∧
  (∀ s : State, regValue .reserved s = 0#32) ∧
  ∀ (r : Reg) (v : Word) (s : State),
    (∀ i, r ≠ .hist i) → r ∉ [.ctrl, .status, .cmd, .budgetLo, .budgetHi] → writeReg r v s = s

/-- The NODE window (R63): the four words of a defined slot, bit field by bit field, and zeros while
TREE_VALID = 0 and from slot NNODES on. -/
def Obligations.NodeWindowShowsTheSlot : Prop :=
  ∀ (s : State) (slot : BitVec 9) (h : slot.toNat < 511),
    (s.treeValid = true → slot.toNat < s.tree.nnodes.toNat →
      let nd := s.tree.nodeAt ⟨slot.toNat, h⟩
      (∀ sym w, nd = .leaf sym w →
        (regValue (.node slot 0#2) s).toNat = 2 ^ 31 + 2 ^ 30 + sym.toNat ∧
        (regValue (.node slot 3#2) s).toNat = 0) ∧
      (∀ w l r, nd = .internal w l r →
        (regValue (.node slot 0#2) s).toNat = 2 ^ 31 + 2 ^ 29 + (if r.isSome then 2 ^ 28 else 0) ∧
        (regValue (.node slot 3#2) s).toNat = l.val * 2 ^ 16 + (r.map Fin.val).getD 0) ∧
      (regValue (.node slot 1#2) s).toNat = nd.weight.toNat % 2 ^ 32 ∧
      (regValue (.node slot 2#2) s).toNat = nd.weight.toNat / 2 ^ 32) ∧
    (s.treeValid = false ∨ s.tree.nnodes.toNat ≤ slot.toNat →
      ∀ w : BitVec 2, regValue (.node slot w) s = 0#32) ∧
    ∀ w : BitVec 2, regValue (.node 511#9 w) s = 0#32

/-- The CODE window (R63): word 0 is len; code bit k stands at word 1 + k/32, bit 31 - (k mod 32); every other
bit of the slot is 0; all of it is 0 while CODES_VALID = 0. -/
def Obligations.CodeWindowShowsTheCode : Prop :=
  ∀ (s : State) (sym : Byte),
    (s.codesValid = true → (s.codeAt sym).length ≤ 255 →
      (regValue (.code sym 0#4) s).toNat = (s.codeAt sym).length ∧
      ∀ (w : BitVec 4) (b : Nat), w ≠ 0#4 → b < 32 →
        (regValue (.code sym w) s).getLsbD b =
          (s.codeAt sym).getD (32 * (w.toNat - 1) + (31 - b)) false) ∧
    (s.codesValid = false → ∀ w : BitVec 4, regValue (.code sym w) s = 0#32)

/-- The interrupt (R220): a level, IE AND DONE, raised by completion, dropped by an accepted command, by
writing 1 to DONE, by IE = 0 and by reset. -/
def Obligations.IrqIsALevelOfDoneAndEnable : Prop :=
  ∀ s : State,
    s.irq = (s.ie && s.done) ∧
    ((complete s).irq = s.ie) ∧
    (∀ w c i, (errorEntry w c i s).irq = s.ie) ∧
    (∀ v : Word, v.getLsbD 1 = true → (writeReg .status v s).irq = false) ∧
    (∀ v : Word, v.getLsbD 0 = false ∨ v.getLsbD 1 = true → (writeReg .ctrl v s).irq = false) ∧
    (∀ w, s.busy = false → s.err = false → (writeReg .cmd w s).irq = false) ∧
    (perform .assertReset s).irq = false

/-- Reset as a level (R240) and what becomes of a command it abandons (R242). Asserting `rst` gives every element
R41's value, the ports and the host's side left; they hold those values at every step while it is asserted and on
its release; no write then changes anything and the core does not move (inferred from R240, log entry 12); the
first CMD write after the release is accepted. An abandoned command's push that was answered OK has its byte delivered, one answered IOERR or not
answered has not, and no later push gets its answer (log entry 4). No DONE and no IRQ. The soft reset does
the same to the command. -/
def Obligations.ResetHoldsAndAbandons : Prop :=
  ∀ s : State,
    let resetState (level : Bool) (u : State) : State :=
      { State.reset with
        rst := level, input := u.input, answers := u.answers, sink := u.sink, output := u.output
        host := u.host, readData := u.readData, draws := u.draws }
    perform .assertReset s = resetState true s ∧
    (s.rst = true →
      perform .releaseReset s = resetState false s ∧ (∀ addr v, perform (.write addr v) s = s) ∧
      coreTurn s = false ∧
      (Inv s → s = resetState true s ∧ ∀ t, step s = .next t → t = resetState t.rst t)) ∧
    (∀ w : Word, perform (.write (wordAddr 0x014#16) w) (resetState false s) =
      { resetState false s with pending := some w, busy := true }) ∧
    ∀ a : HostAction,
      a = .assertReset ∨
        (s.rst = false ∧ ∃ v : Word, v.getLsbD 1 = true ∧ a = .write (wordAddr 0x004#16) v) →
      (perform a s = resetState (a == .assertReset) s ∧ (perform a s).irq = false) ∧
      ∀ b : Byte, offeredByte s = some b → s.reply = none →
        perform a (perform (.answer .ok) s) =
          { resetState (a == .assertReset) s with output := s.output ++ [b] } ∧
        perform a (perform (.answer .ioerr) s) = resetState (a == .assertReset) s
end

