-- ==== Sys2Proof/Laws/State.lean ====
section
/-! SUPPORT. One lemma per field per named update of State, each true by `rfl`, so that no later proof
unfolds a record update. -/

namespace Sys2Proof.Machine

/-! `State.setHist` -/

@[simp] theorem State.setHist_rst (s : State) (b : Byte) (v : Word) : (s.setHist b v).rst = s.rst := rfl
@[simp] theorem State.setHist_ie (s : State) (b : Byte) (v : Word) : (s.setHist b v).ie = s.ie := rfl
@[simp] theorem State.setHist_busy (s : State) (b : Byte) (v : Word) : (s.setHist b v).busy = s.busy := rfl
@[simp] theorem State.setHist_done (s : State) (b : Byte) (v : Word) : (s.setHist b v).done = s.done := rfl
@[simp] theorem State.setHist_err (s : State) (b : Byte) (v : Word) : (s.setHist b v).err = s.err := rfl
@[simp] theorem State.setHist_rej (s : State) (b : Byte) (v : Word) : (s.setHist b v).rej = s.rej := rfl
@[simp] theorem State.setHist_treeValid (s : State) (b : Byte) (v : Word) : (s.setHist b v).treeValid = s.treeValid := rfl
@[simp] theorem State.setHist_codesValid (s : State) (b : Byte) (v : Word) : (s.setHist b v).codesValid = s.codesValid := rfl
@[simp] theorem State.setHist_brOpen (s : State) (b : Byte) (v : Word) : (s.setHist b v).brOpen = s.brOpen := rfl
@[simp] theorem State.setHist_errcode (s : State) (b : Byte) (v : Word) : (s.setHist b v).errcode = s.errcode := rfl
@[simp] theorem State.setHist_errinfo (s : State) (b : Byte) (v : Word) : (s.setHist b v).errinfo = s.errinfo := rfl
@[simp] theorem State.setHist_pending (s : State) (b : Byte) (v : Word) : (s.setHist b v).pending = s.pending := rfl
@[simp] theorem State.setHist_progress (s : State) (b : Byte) (v : Word) : (s.setHist b v).progress = s.progress := rfl
@[simp] theorem State.setHist_result (s : State) (b : Byte) (v : Word) : (s.setHist b v).result = s.result := rfl
@[simp] theorem State.setHist_hist (s : State) (b : Byte) (v : Word) : (s.setHist b v).hist = s.hist.set b.toNat v b.isLt := rfl
@[simp] theorem State.setHist_tree (s : State) (b : Byte) (v : Word) : (s.setHist b v).tree = s.tree := rfl
@[simp] theorem State.setHist_code (s : State) (b : Byte) (v : Word) : (s.setHist b v).code = s.code := rfl
@[simp] theorem State.setHist_budget (s : State) (b : Byte) (v : Word) : (s.setHist b v).budget = s.budget := rfl
@[simp] theorem State.setHist_bwAcc (s : State) (b : Byte) (v : Word) : (s.setHist b v).bwAcc = s.bwAcc := rfl
@[simp] theorem State.setHist_bwNbits (s : State) (b : Byte) (v : Word) : (s.setHist b v).bwNbits = s.bwNbits := rfl
@[simp] theorem State.setHist_brBuf (s : State) (b : Byte) (v : Word) : (s.setHist b v).brBuf = s.brBuf := rfl
@[simp] theorem State.setHist_brNleft (s : State) (b : Byte) (v : Word) : (s.setHist b v).brNleft = s.brNleft := rfl
@[simp] theorem State.setHist_input (s : State) (b : Byte) (v : Word) : (s.setHist b v).input = s.input := rfl
@[simp] theorem State.setHist_answers (s : State) (b : Byte) (v : Word) : (s.setHist b v).answers = s.answers := rfl
@[simp] theorem State.setHist_reply (s : State) (b : Byte) (v : Word) : (s.setHist b v).reply = s.reply := rfl
@[simp] theorem State.setHist_sink (s : State) (b : Byte) (v : Word) : (s.setHist b v).sink = s.sink := rfl
@[simp] theorem State.setHist_output (s : State) (b : Byte) (v : Word) : (s.setHist b v).output = s.output := rfl
@[simp] theorem State.setHist_host (s : State) (b : Byte) (v : Word) : (s.setHist b v).host = s.host := rfl
@[simp] theorem State.setHist_readData (s : State) (b : Byte) (v : Word) : (s.setHist b v).readData = s.readData := rfl
@[simp] theorem State.setHist_draws (s : State) (b : Byte) (v : Word) : (s.setHist b v).draws = s.draws := rfl

/-! `State.setInput` -/

@[simp] theorem State.setInput_rst (s : State) (q : List InItem) : (s.setInput q).rst = s.rst := rfl
@[simp] theorem State.setInput_ie (s : State) (q : List InItem) : (s.setInput q).ie = s.ie := rfl
@[simp] theorem State.setInput_busy (s : State) (q : List InItem) : (s.setInput q).busy = s.busy := rfl
@[simp] theorem State.setInput_done (s : State) (q : List InItem) : (s.setInput q).done = s.done := rfl
@[simp] theorem State.setInput_err (s : State) (q : List InItem) : (s.setInput q).err = s.err := rfl
@[simp] theorem State.setInput_rej (s : State) (q : List InItem) : (s.setInput q).rej = s.rej := rfl
@[simp] theorem State.setInput_treeValid (s : State) (q : List InItem) : (s.setInput q).treeValid = s.treeValid := rfl
@[simp] theorem State.setInput_codesValid (s : State) (q : List InItem) : (s.setInput q).codesValid = s.codesValid := rfl
@[simp] theorem State.setInput_brOpen (s : State) (q : List InItem) : (s.setInput q).brOpen = s.brOpen := rfl
@[simp] theorem State.setInput_errcode (s : State) (q : List InItem) : (s.setInput q).errcode = s.errcode := rfl
@[simp] theorem State.setInput_errinfo (s : State) (q : List InItem) : (s.setInput q).errinfo = s.errinfo := rfl
@[simp] theorem State.setInput_pending (s : State) (q : List InItem) : (s.setInput q).pending = s.pending := rfl
@[simp] theorem State.setInput_progress (s : State) (q : List InItem) : (s.setInput q).progress = s.progress := rfl
@[simp] theorem State.setInput_result (s : State) (q : List InItem) : (s.setInput q).result = s.result := rfl
@[simp] theorem State.setInput_hist (s : State) (q : List InItem) : (s.setInput q).hist = s.hist := rfl
@[simp] theorem State.setInput_tree (s : State) (q : List InItem) : (s.setInput q).tree = s.tree := rfl
@[simp] theorem State.setInput_code (s : State) (q : List InItem) : (s.setInput q).code = s.code := rfl
@[simp] theorem State.setInput_budget (s : State) (q : List InItem) : (s.setInput q).budget = s.budget := rfl
@[simp] theorem State.setInput_bwAcc (s : State) (q : List InItem) : (s.setInput q).bwAcc = s.bwAcc := rfl
@[simp] theorem State.setInput_bwNbits (s : State) (q : List InItem) : (s.setInput q).bwNbits = s.bwNbits := rfl
@[simp] theorem State.setInput_brBuf (s : State) (q : List InItem) : (s.setInput q).brBuf = s.brBuf := rfl
@[simp] theorem State.setInput_brNleft (s : State) (q : List InItem) : (s.setInput q).brNleft = s.brNleft := rfl
@[simp] theorem State.setInput_input (s : State) (q : List InItem) : (s.setInput q).input = q := rfl
@[simp] theorem State.setInput_answers (s : State) (q : List InItem) : (s.setInput q).answers = s.answers := rfl
@[simp] theorem State.setInput_reply (s : State) (q : List InItem) : (s.setInput q).reply = s.reply := rfl
@[simp] theorem State.setInput_sink (s : State) (q : List InItem) : (s.setInput q).sink = s.sink := rfl
@[simp] theorem State.setInput_output (s : State) (q : List InItem) : (s.setInput q).output = s.output := rfl
@[simp] theorem State.setInput_host (s : State) (q : List InItem) : (s.setInput q).host = s.host := rfl
@[simp] theorem State.setInput_readData (s : State) (q : List InItem) : (s.setInput q).readData = s.readData := rfl
@[simp] theorem State.setInput_draws (s : State) (q : List InItem) : (s.setInput q).draws = s.draws := rfl

/-! `State.deliver` -/

@[simp] theorem State.deliver_rst (s : State) (bs : List Byte) (r : List Answer) : (s.deliver bs r).rst = s.rst := rfl
@[simp] theorem State.deliver_ie (s : State) (bs : List Byte) (r : List Answer) : (s.deliver bs r).ie = s.ie := rfl
@[simp] theorem State.deliver_busy (s : State) (bs : List Byte) (r : List Answer) : (s.deliver bs r).busy = s.busy := rfl
@[simp] theorem State.deliver_done (s : State) (bs : List Byte) (r : List Answer) : (s.deliver bs r).done = s.done := rfl
@[simp] theorem State.deliver_err (s : State) (bs : List Byte) (r : List Answer) : (s.deliver bs r).err = s.err := rfl
@[simp] theorem State.deliver_rej (s : State) (bs : List Byte) (r : List Answer) : (s.deliver bs r).rej = s.rej := rfl
@[simp] theorem State.deliver_treeValid (s : State) (bs : List Byte) (r : List Answer) : (s.deliver bs r).treeValid = s.treeValid := rfl
@[simp] theorem State.deliver_codesValid (s : State) (bs : List Byte) (r : List Answer) : (s.deliver bs r).codesValid = s.codesValid := rfl
@[simp] theorem State.deliver_brOpen (s : State) (bs : List Byte) (r : List Answer) : (s.deliver bs r).brOpen = s.brOpen := rfl
@[simp] theorem State.deliver_errcode (s : State) (bs : List Byte) (r : List Answer) : (s.deliver bs r).errcode = s.errcode := rfl
@[simp] theorem State.deliver_errinfo (s : State) (bs : List Byte) (r : List Answer) : (s.deliver bs r).errinfo = s.errinfo := rfl
@[simp] theorem State.deliver_pending (s : State) (bs : List Byte) (r : List Answer) : (s.deliver bs r).pending = s.pending := rfl
@[simp] theorem State.deliver_progress (s : State) (bs : List Byte) (r : List Answer) : (s.deliver bs r).progress = s.progress := rfl
@[simp] theorem State.deliver_result (s : State) (bs : List Byte) (r : List Answer) : (s.deliver bs r).result = s.result := rfl
@[simp] theorem State.deliver_hist (s : State) (bs : List Byte) (r : List Answer) : (s.deliver bs r).hist = s.hist := rfl
@[simp] theorem State.deliver_tree (s : State) (bs : List Byte) (r : List Answer) : (s.deliver bs r).tree = s.tree := rfl
@[simp] theorem State.deliver_code (s : State) (bs : List Byte) (r : List Answer) : (s.deliver bs r).code = s.code := rfl
@[simp] theorem State.deliver_budget (s : State) (bs : List Byte) (r : List Answer) : (s.deliver bs r).budget = s.budget := rfl
@[simp] theorem State.deliver_bwAcc (s : State) (bs : List Byte) (r : List Answer) : (s.deliver bs r).bwAcc = s.bwAcc := rfl
@[simp] theorem State.deliver_bwNbits (s : State) (bs : List Byte) (r : List Answer) : (s.deliver bs r).bwNbits = s.bwNbits := rfl
@[simp] theorem State.deliver_brBuf (s : State) (bs : List Byte) (r : List Answer) : (s.deliver bs r).brBuf = s.brBuf := rfl
@[simp] theorem State.deliver_brNleft (s : State) (bs : List Byte) (r : List Answer) : (s.deliver bs r).brNleft = s.brNleft := rfl
@[simp] theorem State.deliver_input (s : State) (bs : List Byte) (r : List Answer) : (s.deliver bs r).input = s.input := rfl
@[simp] theorem State.deliver_answers (s : State) (bs : List Byte) (r : List Answer) : (s.deliver bs r).answers = r := rfl
@[simp] theorem State.deliver_reply (s : State) (bs : List Byte) (r : List Answer) : (s.deliver bs r).reply = s.reply := rfl
@[simp] theorem State.deliver_sink (s : State) (bs : List Byte) (r : List Answer) : (s.deliver bs r).sink = s.sink := rfl
@[simp] theorem State.deliver_output (s : State) (bs : List Byte) (r : List Answer) : (s.deliver bs r).output = s.output ++ bs := rfl
@[simp] theorem State.deliver_host (s : State) (bs : List Byte) (r : List Answer) : (s.deliver bs r).host = s.host := rfl
@[simp] theorem State.deliver_readData (s : State) (bs : List Byte) (r : List Answer) : (s.deliver bs r).readData = s.readData := rfl
@[simp] theorem State.deliver_draws (s : State) (bs : List Byte) (r : List Answer) : (s.deliver bs r).draws = s.draws := rfl

/-! `State.setReply` -/

@[simp] theorem State.setReply_rst (s : State) (r : Option Answer) : (s.setReply r).rst = s.rst := rfl
@[simp] theorem State.setReply_ie (s : State) (r : Option Answer) : (s.setReply r).ie = s.ie := rfl
@[simp] theorem State.setReply_busy (s : State) (r : Option Answer) : (s.setReply r).busy = s.busy := rfl
@[simp] theorem State.setReply_done (s : State) (r : Option Answer) : (s.setReply r).done = s.done := rfl
@[simp] theorem State.setReply_err (s : State) (r : Option Answer) : (s.setReply r).err = s.err := rfl
@[simp] theorem State.setReply_rej (s : State) (r : Option Answer) : (s.setReply r).rej = s.rej := rfl
@[simp] theorem State.setReply_treeValid (s : State) (r : Option Answer) : (s.setReply r).treeValid = s.treeValid := rfl
@[simp] theorem State.setReply_codesValid (s : State) (r : Option Answer) : (s.setReply r).codesValid = s.codesValid := rfl
@[simp] theorem State.setReply_brOpen (s : State) (r : Option Answer) : (s.setReply r).brOpen = s.brOpen := rfl
@[simp] theorem State.setReply_errcode (s : State) (r : Option Answer) : (s.setReply r).errcode = s.errcode := rfl
@[simp] theorem State.setReply_errinfo (s : State) (r : Option Answer) : (s.setReply r).errinfo = s.errinfo := rfl
@[simp] theorem State.setReply_pending (s : State) (r : Option Answer) : (s.setReply r).pending = s.pending := rfl
@[simp] theorem State.setReply_progress (s : State) (r : Option Answer) : (s.setReply r).progress = s.progress := rfl
@[simp] theorem State.setReply_result (s : State) (r : Option Answer) : (s.setReply r).result = s.result := rfl
@[simp] theorem State.setReply_hist (s : State) (r : Option Answer) : (s.setReply r).hist = s.hist := rfl
@[simp] theorem State.setReply_tree (s : State) (r : Option Answer) : (s.setReply r).tree = s.tree := rfl
@[simp] theorem State.setReply_code (s : State) (r : Option Answer) : (s.setReply r).code = s.code := rfl
@[simp] theorem State.setReply_budget (s : State) (r : Option Answer) : (s.setReply r).budget = s.budget := rfl
@[simp] theorem State.setReply_bwAcc (s : State) (r : Option Answer) : (s.setReply r).bwAcc = s.bwAcc := rfl
@[simp] theorem State.setReply_bwNbits (s : State) (r : Option Answer) : (s.setReply r).bwNbits = s.bwNbits := rfl
@[simp] theorem State.setReply_brBuf (s : State) (r : Option Answer) : (s.setReply r).brBuf = s.brBuf := rfl
@[simp] theorem State.setReply_brNleft (s : State) (r : Option Answer) : (s.setReply r).brNleft = s.brNleft := rfl
@[simp] theorem State.setReply_input (s : State) (r : Option Answer) : (s.setReply r).input = s.input := rfl
@[simp] theorem State.setReply_answers (s : State) (r : Option Answer) : (s.setReply r).answers = s.answers := rfl
@[simp] theorem State.setReply_reply (s : State) (r : Option Answer) : (s.setReply r).reply = r := rfl
@[simp] theorem State.setReply_sink (s : State) (r : Option Answer) : (s.setReply r).sink = s.sink := rfl
@[simp] theorem State.setReply_output (s : State) (r : Option Answer) : (s.setReply r).output = s.output := rfl
@[simp] theorem State.setReply_host (s : State) (r : Option Answer) : (s.setReply r).host = s.host := rfl
@[simp] theorem State.setReply_readData (s : State) (r : Option Answer) : (s.setReply r).readData = s.readData := rfl
@[simp] theorem State.setReply_draws (s : State) (r : Option Answer) : (s.setReply r).draws = s.draws := rfl

/-! `State.setSink` -/

@[simp] theorem State.setSink_rst (s : State) (k : Option Nat) : (s.setSink k).rst = s.rst := rfl
@[simp] theorem State.setSink_ie (s : State) (k : Option Nat) : (s.setSink k).ie = s.ie := rfl
@[simp] theorem State.setSink_busy (s : State) (k : Option Nat) : (s.setSink k).busy = s.busy := rfl
@[simp] theorem State.setSink_done (s : State) (k : Option Nat) : (s.setSink k).done = s.done := rfl
@[simp] theorem State.setSink_err (s : State) (k : Option Nat) : (s.setSink k).err = s.err := rfl
@[simp] theorem State.setSink_rej (s : State) (k : Option Nat) : (s.setSink k).rej = s.rej := rfl
@[simp] theorem State.setSink_treeValid (s : State) (k : Option Nat) : (s.setSink k).treeValid = s.treeValid := rfl
@[simp] theorem State.setSink_codesValid (s : State) (k : Option Nat) : (s.setSink k).codesValid = s.codesValid := rfl
@[simp] theorem State.setSink_brOpen (s : State) (k : Option Nat) : (s.setSink k).brOpen = s.brOpen := rfl
@[simp] theorem State.setSink_errcode (s : State) (k : Option Nat) : (s.setSink k).errcode = s.errcode := rfl
@[simp] theorem State.setSink_errinfo (s : State) (k : Option Nat) : (s.setSink k).errinfo = s.errinfo := rfl
@[simp] theorem State.setSink_pending (s : State) (k : Option Nat) : (s.setSink k).pending = s.pending := rfl
@[simp] theorem State.setSink_progress (s : State) (k : Option Nat) : (s.setSink k).progress = s.progress := rfl
@[simp] theorem State.setSink_result (s : State) (k : Option Nat) : (s.setSink k).result = s.result := rfl
@[simp] theorem State.setSink_hist (s : State) (k : Option Nat) : (s.setSink k).hist = s.hist := rfl
@[simp] theorem State.setSink_tree (s : State) (k : Option Nat) : (s.setSink k).tree = s.tree := rfl
@[simp] theorem State.setSink_code (s : State) (k : Option Nat) : (s.setSink k).code = s.code := rfl
@[simp] theorem State.setSink_budget (s : State) (k : Option Nat) : (s.setSink k).budget = s.budget := rfl
@[simp] theorem State.setSink_bwAcc (s : State) (k : Option Nat) : (s.setSink k).bwAcc = s.bwAcc := rfl
@[simp] theorem State.setSink_bwNbits (s : State) (k : Option Nat) : (s.setSink k).bwNbits = s.bwNbits := rfl
@[simp] theorem State.setSink_brBuf (s : State) (k : Option Nat) : (s.setSink k).brBuf = s.brBuf := rfl
@[simp] theorem State.setSink_brNleft (s : State) (k : Option Nat) : (s.setSink k).brNleft = s.brNleft := rfl
@[simp] theorem State.setSink_input (s : State) (k : Option Nat) : (s.setSink k).input = s.input := rfl
@[simp] theorem State.setSink_answers (s : State) (k : Option Nat) : (s.setSink k).answers = s.answers := rfl
@[simp] theorem State.setSink_reply (s : State) (k : Option Nat) : (s.setSink k).reply = s.reply := rfl
@[simp] theorem State.setSink_sink (s : State) (k : Option Nat) : (s.setSink k).sink = k := rfl
@[simp] theorem State.setSink_output (s : State) (k : Option Nat) : (s.setSink k).output = s.output := rfl
@[simp] theorem State.setSink_host (s : State) (k : Option Nat) : (s.setSink k).host = s.host := rfl
@[simp] theorem State.setSink_readData (s : State) (k : Option Nat) : (s.setSink k).readData = s.readData := rfl
@[simp] theorem State.setSink_draws (s : State) (k : Option Nat) : (s.setSink k).draws = s.draws := rfl

/-! `startSink` -/

@[simp] theorem startSink_rst (k : Nat) (s : State) : (startSink k s).rst = s.rst := rfl
@[simp] theorem startSink_ie (k : Nat) (s : State) : (startSink k s).ie = s.ie := rfl
@[simp] theorem startSink_busy (k : Nat) (s : State) : (startSink k s).busy = s.busy := rfl
@[simp] theorem startSink_done (k : Nat) (s : State) : (startSink k s).done = s.done := rfl
@[simp] theorem startSink_err (k : Nat) (s : State) : (startSink k s).err = s.err := rfl
@[simp] theorem startSink_rej (k : Nat) (s : State) : (startSink k s).rej = s.rej := rfl
@[simp] theorem startSink_treeValid (k : Nat) (s : State) : (startSink k s).treeValid = s.treeValid := rfl
@[simp] theorem startSink_codesValid (k : Nat) (s : State) : (startSink k s).codesValid = s.codesValid := rfl
@[simp] theorem startSink_brOpen (k : Nat) (s : State) : (startSink k s).brOpen = s.brOpen := rfl
@[simp] theorem startSink_errcode (k : Nat) (s : State) : (startSink k s).errcode = s.errcode := rfl
@[simp] theorem startSink_errinfo (k : Nat) (s : State) : (startSink k s).errinfo = s.errinfo := rfl
@[simp] theorem startSink_pending (k : Nat) (s : State) : (startSink k s).pending = s.pending := rfl
@[simp] theorem startSink_progress (k : Nat) (s : State) : (startSink k s).progress = s.progress := rfl
@[simp] theorem startSink_result (k : Nat) (s : State) : (startSink k s).result = s.result := rfl
@[simp] theorem startSink_hist (k : Nat) (s : State) : (startSink k s).hist = s.hist := rfl
@[simp] theorem startSink_tree (k : Nat) (s : State) : (startSink k s).tree = s.tree := rfl
@[simp] theorem startSink_code (k : Nat) (s : State) : (startSink k s).code = s.code := rfl
@[simp] theorem startSink_budget (k : Nat) (s : State) : (startSink k s).budget = s.budget := rfl
@[simp] theorem startSink_bwAcc (k : Nat) (s : State) : (startSink k s).bwAcc = s.bwAcc := rfl
@[simp] theorem startSink_bwNbits (k : Nat) (s : State) : (startSink k s).bwNbits = s.bwNbits := rfl
@[simp] theorem startSink_brBuf (k : Nat) (s : State) : (startSink k s).brBuf = s.brBuf := rfl
@[simp] theorem startSink_brNleft (k : Nat) (s : State) : (startSink k s).brNleft = s.brNleft := rfl
@[simp] theorem startSink_input (k : Nat) (s : State) : (startSink k s).input = s.input := rfl
@[simp] theorem startSink_answers (k : Nat) (s : State) : (startSink k s).answers = [] := rfl
@[simp] theorem startSink_reply (k : Nat) (s : State) : (startSink k s).reply = s.reply := rfl
@[simp] theorem startSink_sink (k : Nat) (s : State) : (startSink k s).sink = some k := rfl
@[simp] theorem startSink_output (k : Nat) (s : State) : (startSink k s).output = s.output := rfl
@[simp] theorem startSink_host (k : Nat) (s : State) : (startSink k s).host = s.host := rfl
@[simp] theorem startSink_readData (k : Nat) (s : State) : (startSink k s).readData = s.readData := rfl
@[simp] theorem startSink_draws (k : Nat) (s : State) : (startSink k s).draws = s.draws := rfl

/-! `State.setWriter` -/

@[simp] theorem State.setWriter_rst (s : State) (a : Byte) (n : Fin 8) : (s.setWriter a n).rst = s.rst := rfl
@[simp] theorem State.setWriter_ie (s : State) (a : Byte) (n : Fin 8) : (s.setWriter a n).ie = s.ie := rfl
@[simp] theorem State.setWriter_busy (s : State) (a : Byte) (n : Fin 8) : (s.setWriter a n).busy = s.busy := rfl
@[simp] theorem State.setWriter_done (s : State) (a : Byte) (n : Fin 8) : (s.setWriter a n).done = s.done := rfl
@[simp] theorem State.setWriter_err (s : State) (a : Byte) (n : Fin 8) : (s.setWriter a n).err = s.err := rfl
@[simp] theorem State.setWriter_rej (s : State) (a : Byte) (n : Fin 8) : (s.setWriter a n).rej = s.rej := rfl
@[simp] theorem State.setWriter_treeValid (s : State) (a : Byte) (n : Fin 8) : (s.setWriter a n).treeValid = s.treeValid := rfl
@[simp] theorem State.setWriter_codesValid (s : State) (a : Byte) (n : Fin 8) : (s.setWriter a n).codesValid = s.codesValid := rfl
@[simp] theorem State.setWriter_brOpen (s : State) (a : Byte) (n : Fin 8) : (s.setWriter a n).brOpen = s.brOpen := rfl
@[simp] theorem State.setWriter_errcode (s : State) (a : Byte) (n : Fin 8) : (s.setWriter a n).errcode = s.errcode := rfl
@[simp] theorem State.setWriter_errinfo (s : State) (a : Byte) (n : Fin 8) : (s.setWriter a n).errinfo = s.errinfo := rfl
@[simp] theorem State.setWriter_pending (s : State) (a : Byte) (n : Fin 8) : (s.setWriter a n).pending = s.pending := rfl
@[simp] theorem State.setWriter_progress (s : State) (a : Byte) (n : Fin 8) : (s.setWriter a n).progress = s.progress := rfl
@[simp] theorem State.setWriter_result (s : State) (a : Byte) (n : Fin 8) : (s.setWriter a n).result = s.result := rfl
@[simp] theorem State.setWriter_hist (s : State) (a : Byte) (n : Fin 8) : (s.setWriter a n).hist = s.hist := rfl
@[simp] theorem State.setWriter_tree (s : State) (a : Byte) (n : Fin 8) : (s.setWriter a n).tree = s.tree := rfl
@[simp] theorem State.setWriter_code (s : State) (a : Byte) (n : Fin 8) : (s.setWriter a n).code = s.code := rfl
@[simp] theorem State.setWriter_budget (s : State) (a : Byte) (n : Fin 8) : (s.setWriter a n).budget = s.budget := rfl
@[simp] theorem State.setWriter_bwAcc (s : State) (a : Byte) (n : Fin 8) : (s.setWriter a n).bwAcc = a := rfl
@[simp] theorem State.setWriter_bwNbits (s : State) (a : Byte) (n : Fin 8) : (s.setWriter a n).bwNbits = n := rfl
@[simp] theorem State.setWriter_brBuf (s : State) (a : Byte) (n : Fin 8) : (s.setWriter a n).brBuf = s.brBuf := rfl
@[simp] theorem State.setWriter_brNleft (s : State) (a : Byte) (n : Fin 8) : (s.setWriter a n).brNleft = s.brNleft := rfl
@[simp] theorem State.setWriter_input (s : State) (a : Byte) (n : Fin 8) : (s.setWriter a n).input = s.input := rfl
@[simp] theorem State.setWriter_answers (s : State) (a : Byte) (n : Fin 8) : (s.setWriter a n).answers = s.answers := rfl
@[simp] theorem State.setWriter_reply (s : State) (a : Byte) (n : Fin 8) : (s.setWriter a n).reply = s.reply := rfl
@[simp] theorem State.setWriter_sink (s : State) (a : Byte) (n : Fin 8) : (s.setWriter a n).sink = s.sink := rfl
@[simp] theorem State.setWriter_output (s : State) (a : Byte) (n : Fin 8) : (s.setWriter a n).output = s.output := rfl
@[simp] theorem State.setWriter_host (s : State) (a : Byte) (n : Fin 8) : (s.setWriter a n).host = s.host := rfl
@[simp] theorem State.setWriter_readData (s : State) (a : Byte) (n : Fin 8) : (s.setWriter a n).readData = s.readData := rfl
@[simp] theorem State.setWriter_draws (s : State) (a : Byte) (n : Fin 8) : (s.setWriter a n).draws = s.draws := rfl

/-! `State.setReader` -/

@[simp] theorem State.setReader_rst (s : State) (b : Byte) (n : Fin 9) : (s.setReader b n).rst = s.rst := rfl
@[simp] theorem State.setReader_ie (s : State) (b : Byte) (n : Fin 9) : (s.setReader b n).ie = s.ie := rfl
@[simp] theorem State.setReader_busy (s : State) (b : Byte) (n : Fin 9) : (s.setReader b n).busy = s.busy := rfl
@[simp] theorem State.setReader_done (s : State) (b : Byte) (n : Fin 9) : (s.setReader b n).done = s.done := rfl
@[simp] theorem State.setReader_err (s : State) (b : Byte) (n : Fin 9) : (s.setReader b n).err = s.err := rfl
@[simp] theorem State.setReader_rej (s : State) (b : Byte) (n : Fin 9) : (s.setReader b n).rej = s.rej := rfl
@[simp] theorem State.setReader_treeValid (s : State) (b : Byte) (n : Fin 9) : (s.setReader b n).treeValid = s.treeValid := rfl
@[simp] theorem State.setReader_codesValid (s : State) (b : Byte) (n : Fin 9) : (s.setReader b n).codesValid = s.codesValid := rfl
@[simp] theorem State.setReader_brOpen (s : State) (b : Byte) (n : Fin 9) : (s.setReader b n).brOpen = s.brOpen := rfl
@[simp] theorem State.setReader_errcode (s : State) (b : Byte) (n : Fin 9) : (s.setReader b n).errcode = s.errcode := rfl
@[simp] theorem State.setReader_errinfo (s : State) (b : Byte) (n : Fin 9) : (s.setReader b n).errinfo = s.errinfo := rfl
@[simp] theorem State.setReader_pending (s : State) (b : Byte) (n : Fin 9) : (s.setReader b n).pending = s.pending := rfl
@[simp] theorem State.setReader_progress (s : State) (b : Byte) (n : Fin 9) : (s.setReader b n).progress = s.progress := rfl
@[simp] theorem State.setReader_result (s : State) (b : Byte) (n : Fin 9) : (s.setReader b n).result = s.result := rfl
@[simp] theorem State.setReader_hist (s : State) (b : Byte) (n : Fin 9) : (s.setReader b n).hist = s.hist := rfl
@[simp] theorem State.setReader_tree (s : State) (b : Byte) (n : Fin 9) : (s.setReader b n).tree = s.tree := rfl
@[simp] theorem State.setReader_code (s : State) (b : Byte) (n : Fin 9) : (s.setReader b n).code = s.code := rfl
@[simp] theorem State.setReader_budget (s : State) (b : Byte) (n : Fin 9) : (s.setReader b n).budget = s.budget := rfl
@[simp] theorem State.setReader_bwAcc (s : State) (b : Byte) (n : Fin 9) : (s.setReader b n).bwAcc = s.bwAcc := rfl
@[simp] theorem State.setReader_bwNbits (s : State) (b : Byte) (n : Fin 9) : (s.setReader b n).bwNbits = s.bwNbits := rfl
@[simp] theorem State.setReader_brBuf (s : State) (b : Byte) (n : Fin 9) : (s.setReader b n).brBuf = b := rfl
@[simp] theorem State.setReader_brNleft (s : State) (b : Byte) (n : Fin 9) : (s.setReader b n).brNleft = n := rfl
@[simp] theorem State.setReader_input (s : State) (b : Byte) (n : Fin 9) : (s.setReader b n).input = s.input := rfl
@[simp] theorem State.setReader_answers (s : State) (b : Byte) (n : Fin 9) : (s.setReader b n).answers = s.answers := rfl
@[simp] theorem State.setReader_reply (s : State) (b : Byte) (n : Fin 9) : (s.setReader b n).reply = s.reply := rfl
@[simp] theorem State.setReader_sink (s : State) (b : Byte) (n : Fin 9) : (s.setReader b n).sink = s.sink := rfl
@[simp] theorem State.setReader_output (s : State) (b : Byte) (n : Fin 9) : (s.setReader b n).output = s.output := rfl
@[simp] theorem State.setReader_host (s : State) (b : Byte) (n : Fin 9) : (s.setReader b n).host = s.host := rfl
@[simp] theorem State.setReader_readData (s : State) (b : Byte) (n : Fin 9) : (s.setReader b n).readData = s.readData := rfl
@[simp] theorem State.setReader_draws (s : State) (b : Byte) (n : Fin 9) : (s.setReader b n).draws = s.draws := rfl

/-! `State.openReader` -/

@[simp] theorem State.openReader_rst (s : State) : s.openReader.rst = s.rst := rfl
@[simp] theorem State.openReader_ie (s : State) : s.openReader.ie = s.ie := rfl
@[simp] theorem State.openReader_busy (s : State) : s.openReader.busy = s.busy := rfl
@[simp] theorem State.openReader_done (s : State) : s.openReader.done = s.done := rfl
@[simp] theorem State.openReader_err (s : State) : s.openReader.err = s.err := rfl
@[simp] theorem State.openReader_rej (s : State) : s.openReader.rej = s.rej := rfl
@[simp] theorem State.openReader_treeValid (s : State) : s.openReader.treeValid = s.treeValid := rfl
@[simp] theorem State.openReader_codesValid (s : State) : s.openReader.codesValid = s.codesValid := rfl
@[simp] theorem State.openReader_brOpen (s : State) : s.openReader.brOpen = true := rfl
@[simp] theorem State.openReader_errcode (s : State) : s.openReader.errcode = s.errcode := rfl
@[simp] theorem State.openReader_errinfo (s : State) : s.openReader.errinfo = s.errinfo := rfl
@[simp] theorem State.openReader_pending (s : State) : s.openReader.pending = s.pending := rfl
@[simp] theorem State.openReader_progress (s : State) : s.openReader.progress = s.progress := rfl
@[simp] theorem State.openReader_result (s : State) : s.openReader.result = s.result := rfl
@[simp] theorem State.openReader_hist (s : State) : s.openReader.hist = s.hist := rfl
@[simp] theorem State.openReader_tree (s : State) : s.openReader.tree = s.tree := rfl
@[simp] theorem State.openReader_code (s : State) : s.openReader.code = s.code := rfl
@[simp] theorem State.openReader_budget (s : State) : s.openReader.budget = s.budget := rfl
@[simp] theorem State.openReader_bwAcc (s : State) : s.openReader.bwAcc = s.bwAcc := rfl
@[simp] theorem State.openReader_bwNbits (s : State) : s.openReader.bwNbits = s.bwNbits := rfl
@[simp] theorem State.openReader_brBuf (s : State) : s.openReader.brBuf = 0#8 := rfl
@[simp] theorem State.openReader_brNleft (s : State) : s.openReader.brNleft = 0 := rfl
@[simp] theorem State.openReader_input (s : State) : s.openReader.input = s.input := rfl
@[simp] theorem State.openReader_answers (s : State) : s.openReader.answers = s.answers := rfl
@[simp] theorem State.openReader_reply (s : State) : s.openReader.reply = s.reply := rfl
@[simp] theorem State.openReader_sink (s : State) : s.openReader.sink = s.sink := rfl
@[simp] theorem State.openReader_output (s : State) : s.openReader.output = s.output := rfl
@[simp] theorem State.openReader_host (s : State) : s.openReader.host = s.host := rfl
@[simp] theorem State.openReader_readData (s : State) : s.openReader.readData = s.readData := rfl
@[simp] theorem State.openReader_draws (s : State) : s.openReader.draws = s.draws := rfl

/-! `State.setBudget` -/

@[simp] theorem State.setBudget_rst (s : State) (v : Weight) : (s.setBudget v).rst = s.rst := rfl
@[simp] theorem State.setBudget_ie (s : State) (v : Weight) : (s.setBudget v).ie = s.ie := rfl
@[simp] theorem State.setBudget_busy (s : State) (v : Weight) : (s.setBudget v).busy = s.busy := rfl
@[simp] theorem State.setBudget_done (s : State) (v : Weight) : (s.setBudget v).done = s.done := rfl
@[simp] theorem State.setBudget_err (s : State) (v : Weight) : (s.setBudget v).err = s.err := rfl
@[simp] theorem State.setBudget_rej (s : State) (v : Weight) : (s.setBudget v).rej = s.rej := rfl
@[simp] theorem State.setBudget_treeValid (s : State) (v : Weight) : (s.setBudget v).treeValid = s.treeValid := rfl
@[simp] theorem State.setBudget_codesValid (s : State) (v : Weight) : (s.setBudget v).codesValid = s.codesValid := rfl
@[simp] theorem State.setBudget_brOpen (s : State) (v : Weight) : (s.setBudget v).brOpen = s.brOpen := rfl
@[simp] theorem State.setBudget_errcode (s : State) (v : Weight) : (s.setBudget v).errcode = s.errcode := rfl
@[simp] theorem State.setBudget_errinfo (s : State) (v : Weight) : (s.setBudget v).errinfo = s.errinfo := rfl
@[simp] theorem State.setBudget_pending (s : State) (v : Weight) : (s.setBudget v).pending = s.pending := rfl
@[simp] theorem State.setBudget_progress (s : State) (v : Weight) : (s.setBudget v).progress = s.progress := rfl
@[simp] theorem State.setBudget_result (s : State) (v : Weight) : (s.setBudget v).result = s.result := rfl
@[simp] theorem State.setBudget_hist (s : State) (v : Weight) : (s.setBudget v).hist = s.hist := rfl
@[simp] theorem State.setBudget_tree (s : State) (v : Weight) : (s.setBudget v).tree = s.tree := rfl
@[simp] theorem State.setBudget_code (s : State) (v : Weight) : (s.setBudget v).code = s.code := rfl
@[simp] theorem State.setBudget_budget (s : State) (v : Weight) : (s.setBudget v).budget = v := rfl
@[simp] theorem State.setBudget_bwAcc (s : State) (v : Weight) : (s.setBudget v).bwAcc = s.bwAcc := rfl
@[simp] theorem State.setBudget_bwNbits (s : State) (v : Weight) : (s.setBudget v).bwNbits = s.bwNbits := rfl
@[simp] theorem State.setBudget_brBuf (s : State) (v : Weight) : (s.setBudget v).brBuf = s.brBuf := rfl
@[simp] theorem State.setBudget_brNleft (s : State) (v : Weight) : (s.setBudget v).brNleft = s.brNleft := rfl
@[simp] theorem State.setBudget_input (s : State) (v : Weight) : (s.setBudget v).input = s.input := rfl
@[simp] theorem State.setBudget_answers (s : State) (v : Weight) : (s.setBudget v).answers = s.answers := rfl
@[simp] theorem State.setBudget_reply (s : State) (v : Weight) : (s.setBudget v).reply = s.reply := rfl
@[simp] theorem State.setBudget_sink (s : State) (v : Weight) : (s.setBudget v).sink = s.sink := rfl
@[simp] theorem State.setBudget_output (s : State) (v : Weight) : (s.setBudget v).output = s.output := rfl
@[simp] theorem State.setBudget_host (s : State) (v : Weight) : (s.setBudget v).host = s.host := rfl
@[simp] theorem State.setBudget_readData (s : State) (v : Weight) : (s.setBudget v).readData = s.readData := rfl
@[simp] theorem State.setBudget_draws (s : State) (v : Weight) : (s.setBudget v).draws = s.draws := rfl

/-! `State.setResult` -/

@[simp] theorem State.setResult_rst (s : State) (r : Result) : (s.setResult r).rst = s.rst := rfl
@[simp] theorem State.setResult_ie (s : State) (r : Result) : (s.setResult r).ie = s.ie := rfl
@[simp] theorem State.setResult_busy (s : State) (r : Result) : (s.setResult r).busy = s.busy := rfl
@[simp] theorem State.setResult_done (s : State) (r : Result) : (s.setResult r).done = s.done := rfl
@[simp] theorem State.setResult_err (s : State) (r : Result) : (s.setResult r).err = s.err := rfl
@[simp] theorem State.setResult_rej (s : State) (r : Result) : (s.setResult r).rej = s.rej := rfl
@[simp] theorem State.setResult_treeValid (s : State) (r : Result) : (s.setResult r).treeValid = s.treeValid := rfl
@[simp] theorem State.setResult_codesValid (s : State) (r : Result) : (s.setResult r).codesValid = s.codesValid := rfl
@[simp] theorem State.setResult_brOpen (s : State) (r : Result) : (s.setResult r).brOpen = s.brOpen := rfl
@[simp] theorem State.setResult_errcode (s : State) (r : Result) : (s.setResult r).errcode = s.errcode := rfl
@[simp] theorem State.setResult_errinfo (s : State) (r : Result) : (s.setResult r).errinfo = s.errinfo := rfl
@[simp] theorem State.setResult_pending (s : State) (r : Result) : (s.setResult r).pending = s.pending := rfl
@[simp] theorem State.setResult_progress (s : State) (r : Result) : (s.setResult r).progress = s.progress := rfl
@[simp] theorem State.setResult_result (s : State) (r : Result) : (s.setResult r).result = r := rfl
@[simp] theorem State.setResult_hist (s : State) (r : Result) : (s.setResult r).hist = s.hist := rfl
@[simp] theorem State.setResult_tree (s : State) (r : Result) : (s.setResult r).tree = s.tree := rfl
@[simp] theorem State.setResult_code (s : State) (r : Result) : (s.setResult r).code = s.code := rfl
@[simp] theorem State.setResult_budget (s : State) (r : Result) : (s.setResult r).budget = s.budget := rfl
@[simp] theorem State.setResult_bwAcc (s : State) (r : Result) : (s.setResult r).bwAcc = s.bwAcc := rfl
@[simp] theorem State.setResult_bwNbits (s : State) (r : Result) : (s.setResult r).bwNbits = s.bwNbits := rfl
@[simp] theorem State.setResult_brBuf (s : State) (r : Result) : (s.setResult r).brBuf = s.brBuf := rfl
@[simp] theorem State.setResult_brNleft (s : State) (r : Result) : (s.setResult r).brNleft = s.brNleft := rfl
@[simp] theorem State.setResult_input (s : State) (r : Result) : (s.setResult r).input = s.input := rfl
@[simp] theorem State.setResult_answers (s : State) (r : Result) : (s.setResult r).answers = s.answers := rfl
@[simp] theorem State.setResult_reply (s : State) (r : Result) : (s.setResult r).reply = s.reply := rfl
@[simp] theorem State.setResult_sink (s : State) (r : Result) : (s.setResult r).sink = s.sink := rfl
@[simp] theorem State.setResult_output (s : State) (r : Result) : (s.setResult r).output = s.output := rfl
@[simp] theorem State.setResult_host (s : State) (r : Result) : (s.setResult r).host = s.host := rfl
@[simp] theorem State.setResult_readData (s : State) (r : Result) : (s.setResult r).readData = s.readData := rfl
@[simp] theorem State.setResult_draws (s : State) (r : Result) : (s.setResult r).draws = s.draws := rfl

/-! `State.invalidate` -/

@[simp] theorem State.invalidate_rst (s : State) : s.invalidate.rst = s.rst := rfl
@[simp] theorem State.invalidate_ie (s : State) : s.invalidate.ie = s.ie := rfl
@[simp] theorem State.invalidate_busy (s : State) : s.invalidate.busy = s.busy := rfl
@[simp] theorem State.invalidate_done (s : State) : s.invalidate.done = s.done := rfl
@[simp] theorem State.invalidate_err (s : State) : s.invalidate.err = s.err := rfl
@[simp] theorem State.invalidate_rej (s : State) : s.invalidate.rej = s.rej := rfl
@[simp] theorem State.invalidate_treeValid (s : State) : s.invalidate.treeValid = false := rfl
@[simp] theorem State.invalidate_codesValid (s : State) : s.invalidate.codesValid = false := rfl
@[simp] theorem State.invalidate_brOpen (s : State) : s.invalidate.brOpen = s.brOpen := rfl
@[simp] theorem State.invalidate_errcode (s : State) : s.invalidate.errcode = s.errcode := rfl
@[simp] theorem State.invalidate_errinfo (s : State) : s.invalidate.errinfo = s.errinfo := rfl
@[simp] theorem State.invalidate_pending (s : State) : s.invalidate.pending = s.pending := rfl
@[simp] theorem State.invalidate_progress (s : State) : s.invalidate.progress = s.progress := rfl
@[simp] theorem State.invalidate_result (s : State) : s.invalidate.result = s.result := rfl
@[simp] theorem State.invalidate_hist (s : State) : s.invalidate.hist = s.hist := rfl
@[simp] theorem State.invalidate_tree (s : State) : s.invalidate.tree = s.tree := rfl
@[simp] theorem State.invalidate_code (s : State) : s.invalidate.code = s.code := rfl
@[simp] theorem State.invalidate_budget (s : State) : s.invalidate.budget = s.budget := rfl
@[simp] theorem State.invalidate_bwAcc (s : State) : s.invalidate.bwAcc = s.bwAcc := rfl
@[simp] theorem State.invalidate_bwNbits (s : State) : s.invalidate.bwNbits = s.bwNbits := rfl
@[simp] theorem State.invalidate_brBuf (s : State) : s.invalidate.brBuf = s.brBuf := rfl
@[simp] theorem State.invalidate_brNleft (s : State) : s.invalidate.brNleft = s.brNleft := rfl
@[simp] theorem State.invalidate_input (s : State) : s.invalidate.input = s.input := rfl
@[simp] theorem State.invalidate_answers (s : State) : s.invalidate.answers = s.answers := rfl
@[simp] theorem State.invalidate_reply (s : State) : s.invalidate.reply = s.reply := rfl
@[simp] theorem State.invalidate_sink (s : State) : s.invalidate.sink = s.sink := rfl
@[simp] theorem State.invalidate_output (s : State) : s.invalidate.output = s.output := rfl
@[simp] theorem State.invalidate_host (s : State) : s.invalidate.host = s.host := rfl
@[simp] theorem State.invalidate_readData (s : State) : s.invalidate.readData = s.readData := rfl
@[simp] theorem State.invalidate_draws (s : State) : s.invalidate.draws = s.draws := rfl

/-! `State.reject` -/

@[simp] theorem State.reject_rst (s : State) : s.reject.rst = s.rst := rfl
@[simp] theorem State.reject_ie (s : State) : s.reject.ie = s.ie := rfl
@[simp] theorem State.reject_busy (s : State) : s.reject.busy = s.busy := rfl
@[simp] theorem State.reject_done (s : State) : s.reject.done = s.done := rfl
@[simp] theorem State.reject_err (s : State) : s.reject.err = s.err := rfl
@[simp] theorem State.reject_rej (s : State) : s.reject.rej = true := rfl
@[simp] theorem State.reject_treeValid (s : State) : s.reject.treeValid = s.treeValid := rfl
@[simp] theorem State.reject_codesValid (s : State) : s.reject.codesValid = s.codesValid := rfl
@[simp] theorem State.reject_brOpen (s : State) : s.reject.brOpen = s.brOpen := rfl
@[simp] theorem State.reject_errcode (s : State) : s.reject.errcode = s.errcode := rfl
@[simp] theorem State.reject_errinfo (s : State) : s.reject.errinfo = s.errinfo := rfl
@[simp] theorem State.reject_pending (s : State) : s.reject.pending = s.pending := rfl
@[simp] theorem State.reject_progress (s : State) : s.reject.progress = s.progress := rfl
@[simp] theorem State.reject_result (s : State) : s.reject.result = s.result := rfl
@[simp] theorem State.reject_hist (s : State) : s.reject.hist = s.hist := rfl
@[simp] theorem State.reject_tree (s : State) : s.reject.tree = s.tree := rfl
@[simp] theorem State.reject_code (s : State) : s.reject.code = s.code := rfl
@[simp] theorem State.reject_budget (s : State) : s.reject.budget = s.budget := rfl
@[simp] theorem State.reject_bwAcc (s : State) : s.reject.bwAcc = s.bwAcc := rfl
@[simp] theorem State.reject_bwNbits (s : State) : s.reject.bwNbits = s.bwNbits := rfl
@[simp] theorem State.reject_brBuf (s : State) : s.reject.brBuf = s.brBuf := rfl
@[simp] theorem State.reject_brNleft (s : State) : s.reject.brNleft = s.brNleft := rfl
@[simp] theorem State.reject_input (s : State) : s.reject.input = s.input := rfl
@[simp] theorem State.reject_answers (s : State) : s.reject.answers = s.answers := rfl
@[simp] theorem State.reject_reply (s : State) : s.reject.reply = s.reply := rfl
@[simp] theorem State.reject_sink (s : State) : s.reject.sink = s.sink := rfl
@[simp] theorem State.reject_output (s : State) : s.reject.output = s.output := rfl
@[simp] theorem State.reject_host (s : State) : s.reject.host = s.host := rfl
@[simp] theorem State.reject_readData (s : State) : s.reject.readData = s.readData := rfl
@[simp] theorem State.reject_draws (s : State) : s.reject.draws = s.draws := rfl

/-! `complete` -/

@[simp] theorem complete_rst (s : State) : (complete s).rst = s.rst := rfl
@[simp] theorem complete_ie (s : State) : (complete s).ie = s.ie := rfl
@[simp] theorem complete_busy (s : State) : (complete s).busy = false := rfl
@[simp] theorem complete_done (s : State) : (complete s).done = true := rfl
@[simp] theorem complete_err (s : State) : (complete s).err = s.err := rfl
@[simp] theorem complete_rej (s : State) : (complete s).rej = s.rej := rfl
@[simp] theorem complete_treeValid (s : State) : (complete s).treeValid = s.treeValid := rfl
@[simp] theorem complete_codesValid (s : State) : (complete s).codesValid = s.codesValid := rfl
@[simp] theorem complete_brOpen (s : State) : (complete s).brOpen = s.brOpen := rfl
@[simp] theorem complete_errcode (s : State) : (complete s).errcode = s.errcode := rfl
@[simp] theorem complete_errinfo (s : State) : (complete s).errinfo = s.errinfo := rfl
@[simp] theorem complete_pending (s : State) : (complete s).pending = none := rfl
@[simp] theorem complete_progress (s : State) : (complete s).progress = .start := rfl
@[simp] theorem complete_result (s : State) : (complete s).result = s.result := rfl
@[simp] theorem complete_hist (s : State) : (complete s).hist = s.hist := rfl
@[simp] theorem complete_tree (s : State) : (complete s).tree = s.tree := rfl
@[simp] theorem complete_code (s : State) : (complete s).code = s.code := rfl
@[simp] theorem complete_budget (s : State) : (complete s).budget = s.budget := rfl
@[simp] theorem complete_bwAcc (s : State) : (complete s).bwAcc = s.bwAcc := rfl
@[simp] theorem complete_bwNbits (s : State) : (complete s).bwNbits = s.bwNbits := rfl
@[simp] theorem complete_brBuf (s : State) : (complete s).brBuf = s.brBuf := rfl
@[simp] theorem complete_brNleft (s : State) : (complete s).brNleft = s.brNleft := rfl
@[simp] theorem complete_input (s : State) : (complete s).input = s.input := rfl
@[simp] theorem complete_answers (s : State) : (complete s).answers = s.answers := rfl
@[simp] theorem complete_reply (s : State) : (complete s).reply = s.reply := rfl
@[simp] theorem complete_sink (s : State) : (complete s).sink = s.sink := rfl
@[simp] theorem complete_output (s : State) : (complete s).output = s.output := rfl
@[simp] theorem complete_host (s : State) : (complete s).host = s.host := rfl
@[simp] theorem complete_readData (s : State) : (complete s).readData = s.readData := rfl
@[simp] theorem complete_draws (s : State) : (complete s).draws = s.draws := rfl

/-! `errorEntry` -/

@[simp] theorem errorEntry_rst (w : Word) (c : ErrCode) (i : Word) (s : State) : (errorEntry w c i s).rst = s.rst := rfl
@[simp] theorem errorEntry_ie (w : Word) (c : ErrCode) (i : Word) (s : State) : (errorEntry w c i s).ie = s.ie := rfl
@[simp] theorem errorEntry_busy (w : Word) (c : ErrCode) (i : Word) (s : State) : (errorEntry w c i s).busy = false := rfl
@[simp] theorem errorEntry_done (w : Word) (c : ErrCode) (i : Word) (s : State) : (errorEntry w c i s).done = true := rfl
@[simp] theorem errorEntry_err (w : Word) (c : ErrCode) (i : Word) (s : State) : (errorEntry w c i s).err = true := rfl
@[simp] theorem errorEntry_rej (w : Word) (c : ErrCode) (i : Word) (s : State) : (errorEntry w c i s).rej = s.rej := rfl
@[simp] theorem errorEntry_treeValid (w : Word) (c : ErrCode) (i : Word) (s : State) : (errorEntry w c i s).treeValid = s.treeValid := rfl
@[simp] theorem errorEntry_codesValid (w : Word) (c : ErrCode) (i : Word) (s : State) : (errorEntry w c i s).codesValid = s.codesValid := rfl
@[simp] theorem errorEntry_brOpen (w : Word) (c : ErrCode) (i : Word) (s : State) : (errorEntry w c i s).brOpen = s.brOpen := rfl
@[simp] theorem errorEntry_errcode (w : Word) (c : ErrCode) (i : Word) (s : State) : (errorEntry w c i s).errcode = c := rfl
@[simp] theorem errorEntry_errinfo (w : Word) (c : ErrCode) (i : Word) (s : State) : (errorEntry w c i s).errinfo = i := rfl
@[simp] theorem errorEntry_pending (w : Word) (c : ErrCode) (i : Word) (s : State) : (errorEntry w c i s).pending = none := rfl
@[simp] theorem errorEntry_progress (w : Word) (c : ErrCode) (i : Word) (s : State) : (errorEntry w c i s).progress = .start := rfl
@[simp] theorem errorEntry_result (w : Word) (c : ErrCode) (i : Word) (s : State) : (errorEntry w c i s).result = if clearsResult (opcOf w) then Result.zero else s.result := rfl
@[simp] theorem errorEntry_hist (w : Word) (c : ErrCode) (i : Word) (s : State) : (errorEntry w c i s).hist = s.hist := rfl
@[simp] theorem errorEntry_tree (w : Word) (c : ErrCode) (i : Word) (s : State) : (errorEntry w c i s).tree = s.tree := rfl
@[simp] theorem errorEntry_code (w : Word) (c : ErrCode) (i : Word) (s : State) : (errorEntry w c i s).code = s.code := rfl
@[simp] theorem errorEntry_budget (w : Word) (c : ErrCode) (i : Word) (s : State) : (errorEntry w c i s).budget = s.budget := rfl
@[simp] theorem errorEntry_bwAcc (w : Word) (c : ErrCode) (i : Word) (s : State) : (errorEntry w c i s).bwAcc = s.bwAcc := rfl
@[simp] theorem errorEntry_bwNbits (w : Word) (c : ErrCode) (i : Word) (s : State) : (errorEntry w c i s).bwNbits = s.bwNbits := rfl
@[simp] theorem errorEntry_brBuf (w : Word) (c : ErrCode) (i : Word) (s : State) : (errorEntry w c i s).brBuf = s.brBuf := rfl
@[simp] theorem errorEntry_brNleft (w : Word) (c : ErrCode) (i : Word) (s : State) : (errorEntry w c i s).brNleft = s.brNleft := rfl
@[simp] theorem errorEntry_input (w : Word) (c : ErrCode) (i : Word) (s : State) : (errorEntry w c i s).input = s.input := rfl
@[simp] theorem errorEntry_answers (w : Word) (c : ErrCode) (i : Word) (s : State) : (errorEntry w c i s).answers = s.answers := rfl
@[simp] theorem errorEntry_reply (w : Word) (c : ErrCode) (i : Word) (s : State) : (errorEntry w c i s).reply = s.reply := rfl
@[simp] theorem errorEntry_sink (w : Word) (c : ErrCode) (i : Word) (s : State) : (errorEntry w c i s).sink = s.sink := rfl
@[simp] theorem errorEntry_output (w : Word) (c : ErrCode) (i : Word) (s : State) : (errorEntry w c i s).output = s.output := rfl
@[simp] theorem errorEntry_host (w : Word) (c : ErrCode) (i : Word) (s : State) : (errorEntry w c i s).host = s.host := rfl
@[simp] theorem errorEntry_readData (w : Word) (c : ErrCode) (i : Word) (s : State) : (errorEntry w c i s).readData = s.readData := rfl
@[simp] theorem errorEntry_draws (w : Word) (c : ErrCode) (i : Word) (s : State) : (errorEntry w c i s).draws = s.draws := rfl

/-! `clearError` -/

@[simp] theorem clearError_rst (s : State) : (clearError s).rst = s.rst := rfl
@[simp] theorem clearError_ie (s : State) : (clearError s).ie = s.ie := rfl
@[simp] theorem clearError_busy (s : State) : (clearError s).busy = s.busy := rfl
@[simp] theorem clearError_done (s : State) : (clearError s).done = s.done := rfl
@[simp] theorem clearError_err (s : State) : (clearError s).err = false := rfl
@[simp] theorem clearError_rej (s : State) : (clearError s).rej = s.rej := rfl
@[simp] theorem clearError_treeValid (s : State) : (clearError s).treeValid = s.treeValid := rfl
@[simp] theorem clearError_codesValid (s : State) : (clearError s).codesValid = s.codesValid := rfl
@[simp] theorem clearError_brOpen (s : State) : (clearError s).brOpen = s.brOpen := rfl
@[simp] theorem clearError_errcode (s : State) : (clearError s).errcode = .none := rfl
@[simp] theorem clearError_errinfo (s : State) : (clearError s).errinfo = 0#32 := rfl
@[simp] theorem clearError_pending (s : State) : (clearError s).pending = s.pending := rfl
@[simp] theorem clearError_progress (s : State) : (clearError s).progress = s.progress := rfl
@[simp] theorem clearError_result (s : State) : (clearError s).result = s.result := rfl
@[simp] theorem clearError_hist (s : State) : (clearError s).hist = s.hist := rfl
@[simp] theorem clearError_tree (s : State) : (clearError s).tree = s.tree := rfl
@[simp] theorem clearError_code (s : State) : (clearError s).code = s.code := rfl
@[simp] theorem clearError_budget (s : State) : (clearError s).budget = s.budget := rfl
@[simp] theorem clearError_bwAcc (s : State) : (clearError s).bwAcc = s.bwAcc := rfl
@[simp] theorem clearError_bwNbits (s : State) : (clearError s).bwNbits = s.bwNbits := rfl
@[simp] theorem clearError_brBuf (s : State) : (clearError s).brBuf = s.brBuf := rfl
@[simp] theorem clearError_brNleft (s : State) : (clearError s).brNleft = s.brNleft := rfl
@[simp] theorem clearError_input (s : State) : (clearError s).input = s.input := rfl
@[simp] theorem clearError_answers (s : State) : (clearError s).answers = s.answers := rfl
@[simp] theorem clearError_reply (s : State) : (clearError s).reply = s.reply := rfl
@[simp] theorem clearError_sink (s : State) : (clearError s).sink = s.sink := rfl
@[simp] theorem clearError_output (s : State) : (clearError s).output = s.output := rfl
@[simp] theorem clearError_host (s : State) : (clearError s).host = s.host := rfl
@[simp] theorem clearError_readData (s : State) : (clearError s).readData = s.readData := rfl
@[simp] theorem clearError_draws (s : State) : (clearError s).draws = s.draws := rfl

/-! `hardReset` -/

@[simp] theorem hardReset_rst (s : State) : (hardReset s).rst = s.rst := rfl
@[simp] theorem hardReset_ie (s : State) : (hardReset s).ie = State.reset.ie := rfl
@[simp] theorem hardReset_busy (s : State) : (hardReset s).busy = State.reset.busy := rfl
@[simp] theorem hardReset_done (s : State) : (hardReset s).done = State.reset.done := rfl
@[simp] theorem hardReset_err (s : State) : (hardReset s).err = State.reset.err := rfl
@[simp] theorem hardReset_rej (s : State) : (hardReset s).rej = State.reset.rej := rfl
@[simp] theorem hardReset_treeValid (s : State) : (hardReset s).treeValid = State.reset.treeValid := rfl
@[simp] theorem hardReset_codesValid (s : State) : (hardReset s).codesValid = State.reset.codesValid := rfl
@[simp] theorem hardReset_brOpen (s : State) : (hardReset s).brOpen = State.reset.brOpen := rfl
@[simp] theorem hardReset_errcode (s : State) : (hardReset s).errcode = State.reset.errcode := rfl
@[simp] theorem hardReset_errinfo (s : State) : (hardReset s).errinfo = State.reset.errinfo := rfl
@[simp] theorem hardReset_pending (s : State) : (hardReset s).pending = State.reset.pending := rfl
@[simp] theorem hardReset_progress (s : State) : (hardReset s).progress = State.reset.progress := rfl
@[simp] theorem hardReset_result (s : State) : (hardReset s).result = State.reset.result := rfl
@[simp] theorem hardReset_hist (s : State) : (hardReset s).hist = State.reset.hist := rfl
@[simp] theorem hardReset_tree (s : State) : (hardReset s).tree = State.reset.tree := rfl
@[simp] theorem hardReset_code (s : State) : (hardReset s).code = State.reset.code := rfl
@[simp] theorem hardReset_budget (s : State) : (hardReset s).budget = State.reset.budget := rfl
@[simp] theorem hardReset_bwAcc (s : State) : (hardReset s).bwAcc = State.reset.bwAcc := rfl
@[simp] theorem hardReset_bwNbits (s : State) : (hardReset s).bwNbits = State.reset.bwNbits := rfl
@[simp] theorem hardReset_brBuf (s : State) : (hardReset s).brBuf = State.reset.brBuf := rfl
@[simp] theorem hardReset_brNleft (s : State) : (hardReset s).brNleft = State.reset.brNleft := rfl
@[simp] theorem hardReset_input (s : State) : (hardReset s).input = s.input := rfl
@[simp] theorem hardReset_answers (s : State) : (hardReset s).answers = s.answers := rfl
@[simp] theorem hardReset_reply (s : State) : (hardReset s).reply = State.reset.reply := rfl
@[simp] theorem hardReset_sink (s : State) : (hardReset s).sink = s.sink := rfl
@[simp] theorem hardReset_output (s : State) : (hardReset s).output = s.output := rfl
@[simp] theorem hardReset_host (s : State) : (hardReset s).host = s.host := rfl
@[simp] theorem hardReset_readData (s : State) : (hardReset s).readData = s.readData := rfl
@[simp] theorem hardReset_draws (s : State) : (hardReset s).draws = s.draws := rfl

/-! `assertReset` -/

@[simp] theorem assertReset_rst (s : State) : (assertReset s).rst = true := rfl
@[simp] theorem assertReset_ie (s : State) : (assertReset s).ie = State.reset.ie := rfl
@[simp] theorem assertReset_busy (s : State) : (assertReset s).busy = State.reset.busy := rfl
@[simp] theorem assertReset_done (s : State) : (assertReset s).done = State.reset.done := rfl
@[simp] theorem assertReset_err (s : State) : (assertReset s).err = State.reset.err := rfl
@[simp] theorem assertReset_rej (s : State) : (assertReset s).rej = State.reset.rej := rfl
@[simp] theorem assertReset_treeValid (s : State) : (assertReset s).treeValid = State.reset.treeValid := rfl
@[simp] theorem assertReset_codesValid (s : State) : (assertReset s).codesValid = State.reset.codesValid := rfl
@[simp] theorem assertReset_brOpen (s : State) : (assertReset s).brOpen = State.reset.brOpen := rfl
@[simp] theorem assertReset_errcode (s : State) : (assertReset s).errcode = State.reset.errcode := rfl
@[simp] theorem assertReset_errinfo (s : State) : (assertReset s).errinfo = State.reset.errinfo := rfl
@[simp] theorem assertReset_pending (s : State) : (assertReset s).pending = State.reset.pending := rfl
@[simp] theorem assertReset_progress (s : State) : (assertReset s).progress = State.reset.progress := rfl
@[simp] theorem assertReset_result (s : State) : (assertReset s).result = State.reset.result := rfl
@[simp] theorem assertReset_hist (s : State) : (assertReset s).hist = State.reset.hist := rfl
@[simp] theorem assertReset_tree (s : State) : (assertReset s).tree = State.reset.tree := rfl
@[simp] theorem assertReset_code (s : State) : (assertReset s).code = State.reset.code := rfl
@[simp] theorem assertReset_budget (s : State) : (assertReset s).budget = State.reset.budget := rfl
@[simp] theorem assertReset_bwAcc (s : State) : (assertReset s).bwAcc = State.reset.bwAcc := rfl
@[simp] theorem assertReset_bwNbits (s : State) : (assertReset s).bwNbits = State.reset.bwNbits := rfl
@[simp] theorem assertReset_brBuf (s : State) : (assertReset s).brBuf = State.reset.brBuf := rfl
@[simp] theorem assertReset_brNleft (s : State) : (assertReset s).brNleft = State.reset.brNleft := rfl
@[simp] theorem assertReset_input (s : State) : (assertReset s).input = s.input := rfl
@[simp] theorem assertReset_answers (s : State) : (assertReset s).answers = s.answers := rfl
@[simp] theorem assertReset_reply (s : State) : (assertReset s).reply = State.reset.reply := rfl
@[simp] theorem assertReset_sink (s : State) : (assertReset s).sink = s.sink := rfl
@[simp] theorem assertReset_output (s : State) : (assertReset s).output = s.output := rfl
@[simp] theorem assertReset_host (s : State) : (assertReset s).host = s.host := rfl
@[simp] theorem assertReset_readData (s : State) : (assertReset s).readData = s.readData := rfl
@[simp] theorem assertReset_draws (s : State) : (assertReset s).draws = s.draws := rfl

/-! `hold` -/

@[simp] theorem hold_rst (p : Progress) (s : State) : (hold p s).rst = s.rst := rfl
@[simp] theorem hold_ie (p : Progress) (s : State) : (hold p s).ie = s.ie := rfl
@[simp] theorem hold_busy (p : Progress) (s : State) : (hold p s).busy = s.busy := rfl
@[simp] theorem hold_done (p : Progress) (s : State) : (hold p s).done = s.done := rfl
@[simp] theorem hold_err (p : Progress) (s : State) : (hold p s).err = s.err := rfl
@[simp] theorem hold_rej (p : Progress) (s : State) : (hold p s).rej = s.rej := rfl
@[simp] theorem hold_treeValid (p : Progress) (s : State) : (hold p s).treeValid = s.treeValid := rfl
@[simp] theorem hold_codesValid (p : Progress) (s : State) : (hold p s).codesValid = s.codesValid := rfl
@[simp] theorem hold_brOpen (p : Progress) (s : State) : (hold p s).brOpen = s.brOpen := rfl
@[simp] theorem hold_errcode (p : Progress) (s : State) : (hold p s).errcode = s.errcode := rfl
@[simp] theorem hold_errinfo (p : Progress) (s : State) : (hold p s).errinfo = s.errinfo := rfl
@[simp] theorem hold_pending (p : Progress) (s : State) : (hold p s).pending = s.pending := rfl
@[simp] theorem hold_progress (p : Progress) (s : State) : (hold p s).progress = p := rfl
@[simp] theorem hold_result (p : Progress) (s : State) : (hold p s).result = s.result := rfl
@[simp] theorem hold_hist (p : Progress) (s : State) : (hold p s).hist = s.hist := rfl
@[simp] theorem hold_tree (p : Progress) (s : State) : (hold p s).tree = s.tree := rfl
@[simp] theorem hold_code (p : Progress) (s : State) : (hold p s).code = s.code := rfl
@[simp] theorem hold_budget (p : Progress) (s : State) : (hold p s).budget = s.budget := rfl
@[simp] theorem hold_bwAcc (p : Progress) (s : State) : (hold p s).bwAcc = s.bwAcc := rfl
@[simp] theorem hold_bwNbits (p : Progress) (s : State) : (hold p s).bwNbits = s.bwNbits := rfl
@[simp] theorem hold_brBuf (p : Progress) (s : State) : (hold p s).brBuf = s.brBuf := rfl
@[simp] theorem hold_brNleft (p : Progress) (s : State) : (hold p s).brNleft = s.brNleft := rfl
@[simp] theorem hold_input (p : Progress) (s : State) : (hold p s).input = s.input := rfl
@[simp] theorem hold_answers (p : Progress) (s : State) : (hold p s).answers = s.answers := rfl
@[simp] theorem hold_reply (p : Progress) (s : State) : (hold p s).reply = s.reply := rfl
@[simp] theorem hold_sink (p : Progress) (s : State) : (hold p s).sink = s.sink := rfl
@[simp] theorem hold_output (p : Progress) (s : State) : (hold p s).output = s.output := rfl
@[simp] theorem hold_host (p : Progress) (s : State) : (hold p s).host = s.host := rfl
@[simp] theorem hold_readData (p : Progress) (s : State) : (hold p s).readData = s.readData := rfl
@[simp] theorem hold_draws (p : Progress) (s : State) : (hold p s).draws = s.draws := rfl

end Sys2Proof.Machine
end

