-- ==== Sys2Proof/Laws/Run.lean ====
section
/-! SUPPORT. What the shared operations can do, each said once: `andThen`, Pull, Push, the end of a command,
and the bit-level subroutines. -/

namespace Sys2Proof.Machine

/-! ### Run -/

@[simp] theorem Run.andThen_ok {α β : Type} (a : α) (s : State) (k : α → State → Run β) :
    (Run.ok a s).andThen k = k a s := rfl

@[simp] theorem Run.andThen_raised {α β : Type} (c : ErrCode) (i : Word) (s : State)
    (k : α → State → Run β) : (Run.raised c i s : Run α).andThen k = .raised c i s := rfl

@[simp] theorem Run.andThen_held {α β : Type} (p : Progress) (s : State) (k : α → State → Run β) :
    (Run.held p s : Run α).andThen k = .held p s := rfl

theorem Run.andThen_assoc {α β γ : Type} (r : Run α) (f : α → State → Run β) (g : β → State → Run γ) :
    (r.andThen f).andThen g = r.andThen fun a s => (f a s).andThen g := by
  cases r <;> rfl

/-- The state a run ends in, however it ends. -/
def Run.state {α : Type} : Run α → State
  | .ok _ s => s
  | .raised _ _ s => s
  | .held _ s => s

@[simp] theorem Run.state_ok {α : Type} (a : α) (s : State) : (Run.ok a s).state = s := rfl
@[simp] theorem Run.state_raised {α : Type} (c : ErrCode) (i : Word) (s : State) :
    (Run.raised c i s : Run α).state = s := rfl
@[simp] theorem Run.state_held {α : Type} (p : Progress) (s : State) :
    (Run.held p s : Run α).state = s := rfl

/-- A transitive relation between the state before and after both parts holds across the whole. -/
theorem Run.andThen_state {α β : Type} {R : State → State → Prop}
    (trans : ∀ a b c, R a b → R b c → R a c) {s : State} {r : Run α} {k : α → State → Run β}
    (hr : R s r.state) (hk : ∀ a t, r = .ok a t → R t (k a t).state) : R s (r.andThen k).state := by
  cases r with
  | ok a t => exact trans _ _ _ hr (hk a t rfl)
  | raised c i t => exact hr
  | held p t => exact hr

/-! ### Ports -/

theorem pull_nil {p : Progress} {s : State} (h : s.input = []) : pull p s = .held p s := by
  simp [pull, h]

theorem pull_cons {p : Progress} {s : State} {it : InItem} {q : List InItem} (h : s.input = it :: q) :
    pull p s = .ok it (s.setInput q) := by
  simp [pull, h]

/-- Everything `Pull()` can do (R66). -/
theorem pull_cases (p : Progress) (s : State) :
    (s.input = [] ∧ pull p s = .held p s) ∨
      ∃ it q, s.input = it :: q ∧ pull p s = .ok it (s.setInput q) := by
  cases h : s.input with
  | nil => exact .inl ⟨rfl, pull_nil h⟩
  | cons it q => exact .inr ⟨it, q, rfl, pull_cons h⟩

theorem pushByte_nil {p : Progress} {b : Byte} {s : State} (h : s.answers = []) :
    pushByte p b s = .held p s := by
  simp [pushByte, push, h]

theorem pushByte_ok {p : Progress} {b : Byte} {s : State} {rest : List Answer}
    (h : s.answers = .ok :: rest) : pushByte p b s = .ok () (s.deliver [b] rest) := by
  simp [pushByte, push, h]

theorem pushByte_ioerr {p : Progress} {b : Byte} {s : State} {rest : List Answer}
    (h : s.answers = .ioerr :: rest) :
    pushByte p b s = .raised .underlyingIo 1#32 (s.deliver [] rest) := by
  simp [pushByte, push, h]

/-- Everything a push with its error check can do (R67, R212). -/
theorem pushByte_cases (p : Progress) (b : Byte) (s : State) :
    (s.answers = [] ∧ pushByte p b s = .held p s) ∨
      (∃ rest, s.answers = .ok :: rest ∧ pushByte p b s = .ok () (s.deliver [b] rest)) ∨
      ∃ rest, s.answers = .ioerr :: rest ∧
        pushByte p b s = .raised .underlyingIo 1#32 (s.deliver [] rest) := by
  cases h : s.answers with
  | nil => exact .inl ⟨rfl, pushByte_nil h⟩
  | cons a rest =>
    cases a with
    | ok => exact .inr (.inl ⟨rest, rfl, pushByte_ok h⟩)
    | ioerr => exact .inr (.inr ⟨rest, rfl, pushByte_ioerr h⟩)

/-- Everything going on from a push can do (R67, R212). -/
theorem takeReply_cases (p : Progress) (s : State) :
    (s.reply = none ∧ takeReply p s = .held p s) ∨
      (s.reply = some .ok ∧ takeReply p s = .ok () (s.setReply none)) ∨
      (s.reply = some .ioerr ∧ takeReply p s = .raised .underlyingIo 1#32 (s.setReply none)) := by
  cases h : s.reply with
  | none => exact .inl ⟨rfl, by simp [takeReply, h]⟩
  | some a =>
    cases a with
    | ok => exact .inr (.inl ⟨rfl, by simp [takeReply, h]⟩)
    | ioerr => exact .inr (.inr ⟨rfl, by simp [takeReply, h]⟩)

theorem answerPush_ok {b : Byte} {s : State} (ho : offeredByte s = some b) (hr : s.reply = none) :
    answerPush .ok s = { s with reply := some .ok, output := s.output ++ [b] } := by
  simp [answerPush, ho, hr]

theorem answerPush_ioerr {b : Byte} {s : State} (ho : offeredByte s = some b) (hr : s.reply = none) :
    answerPush .ioerr s = { s with reply := some .ioerr } := by
  simp [answerPush, ho, hr]

/-- Everything the host's answer can do (R67, R242). -/
theorem answerPush_cases (a : Answer) (s : State) :
    (∃ b, offeredByte s = some b ∧ s.reply = none ∧
        ((a = .ok ∧ answerPush a s = { s with reply := some .ok, output := s.output ++ [b] }) ∨
          (a = .ioerr ∧ answerPush a s = { s with reply := some .ioerr }))) ∨
      ((offeredByte s = none ∨ s.reply ≠ none) ∧
        answerPush a s = { s with answers := s.answers ++ [a] }) := by
  cases ho : offeredByte s with
  | none => exact .inr ⟨.inl rfl, by simp [answerPush, ho]⟩
  | some b =>
    cases hr : s.reply with
    | some x => exact .inr ⟨.inr (by simp), by simp [answerPush, ho, hr]⟩
    | none =>
      refine .inl ⟨b, rfl, rfl, ?_⟩
      cases a with
      | ok => exact .inl ⟨rfl, answerPush_ok ho hr⟩
      | ioerr => exact .inr ⟨rfl, answerPush_ioerr ho hr⟩

/-- Everything the host can do in its turn (R97 `SINKFAIL`): its standing plan answers the push on offer, IOERR to
the push the count has come to and OK to any other, or it makes its next move. -/
theorem hostStep_cases (s : State) :
    (∃ k b, s.sink = some k ∧ offeredByte s = some b ∧ s.reply = none ∧ hostFirst s = false ∧
        ((k = 1 ∧ hostStep s = { s with sink := some 0, reply := some .ioerr }) ∨
          (k ≠ 1 ∧ hostStep s =
            { s with sink := some (k - 1), reply := some .ok, output := s.output ++ [b] }))) ∨
      hostStep s = hostMove s := by
  cases hk : s.sink with
  | none => exact .inr (by simp [hostStep, sinkAnswer, hk])
  | some k =>
    cases ho : offeredByte s with
    | none => exact .inr (by simp [hostStep, sinkAnswer, hk, ho])
    | some b =>
      cases hr : s.reply with
      | some x => exact .inr (by simp [hostStep, sinkAnswer, hk, ho, hr])
      | none =>
        cases hf : hostFirst s with
        | true => exact .inr (by simp [hostStep, sinkAnswer, hk, ho, hr, hf])
        | false =>
          have ho' : offeredByte (s.setSink (some (k - 1))) = some b := ho
          refine .inl ⟨k, b, rfl, rfl, rfl, rfl, ?_⟩
          by_cases h1 : k = 1
          · subst h1
            exact .inl ⟨rfl, by simpa [hostStep, sinkAnswer, hk, ho, hr, hf] using answerPush_ioerr ho' hr⟩
          · exact .inr ⟨h1, by
              simpa [hostStep, sinkAnswer, hk, ho, hr, hf, h1] using answerPush_ok ho' hr⟩

/-! ### The end of a command -/

@[simp] theorem finish_ok (w : Word) (s : State) : finish w (.ok () s) = .next (complete s) := rfl
@[simp] theorem finish_raised (w : Word) (c : ErrCode) (i : Word) (s : State) :
    finish w (.raised c i s) = .next (errorEntry w c i s) := rfl
@[simp] theorem finish_held (w : Word) (p : Progress) (s : State) :
    finish w (.held p s) = .next (hold p s) := rfl

/-- Everything the end of a command can do: completion, error entry, or a wait (R213, R215, R37). -/
theorem finish_cases {w : Word} {r : Run Unit} {t : State} (h : finish w r = .next t) :
    (∃ s, r = .ok () s ∧ t = complete s) ∨
      (∃ c i s, r = .raised c i s ∧ t = errorEntry w c i s) ∨
      ∃ p s, r = .held p s ∧ t = hold p s := by
  cases r with
  | ok a s => exact .inl ⟨s, rfl, by simpa [finish] using h.symm⟩
  | raised c i s => exact .inr (.inl ⟨c, i, s, rfl, by simpa using h.symm⟩)
  | held p s => exact .inr (.inr ⟨p, s, rfl, by simpa using h.symm⟩)

/-- A command always leads to a next state. -/
theorem finish_next (w : Word) (r : Run Unit) : ∃ t, finish w r = .next t := by
  cases r <;> exact ⟨_, rfl⟩

/-! ### The bit-level subroutines -/

/-- Everything `WriteBit` can do (R150). -/
theorem writeBit_cases (stream : Bool) (rest : List Bool) (b : Bool) (s : State) :
    (∃ h : s.bwNbits.val + 1 < 8,
        writeBit stream rest b s =
          .ok () (s.setWriter (shiftIn s.bwAcc b) ⟨s.bwNbits.val + 1, h⟩)) ∨
      (s.bwNbits = 7 ∧
        writeBit stream rest b s =
          pushByte (.write stream (shiftIn s.bwAcc b) rest) (shiftIn s.bwAcc b) (s.setWriter 0#8 0)) := by
  by_cases h : s.bwNbits.val + 1 < 8
  · exact .inl ⟨h, by simp [writeBit, h]⟩
  · refine .inr ⟨?_, by simp [writeBit, h]⟩
    have := s.bwNbits.isLt
    exact Fin.ext (by simp; omega)

/-- Everything `ReadBit` can do (R170). -/
theorem readBit_cases (p : Progress) (s : State) :
    (s.budget = 0#40 ∧ readBit p s = .ok none s) ∨
      (s.budget ≠ 0#40 ∧ s.brNleft ≠ 0 ∧ readBit p s = takeBit s) ∨
      (s.budget ≠ 0#40 ∧ s.brNleft = 0 ∧ s.input = [] ∧ readBit p s = .held p s) ∨
      (∃ q, s.budget ≠ 0#40 ∧ s.brNleft = 0 ∧ s.input = .eos :: q ∧
        readBit p s = .raised .corruptBody (s.budget.extractLsb' 0 32) (s.setInput q)) ∨
      (∃ q, s.budget ≠ 0#40 ∧ s.brNleft = 0 ∧ s.input = .ioerr :: q ∧
        readBit p s = .raised .underlyingIo 0#32 (s.setInput q)) ∨
      ∃ v q, s.budget ≠ 0#40 ∧ s.brNleft = 0 ∧ s.input = .byte v :: q ∧
        readBit p s = takeBit ((s.setInput q).setReader v 8) := by
  by_cases hb : s.budget = 0#40
  · exact .inl ⟨hb, by simp [readBit, hb]⟩
  by_cases hn : s.brNleft = 0
  · rcases pull_cases p s with ⟨hi, hp⟩ | ⟨it, q, hi, hp⟩
    · exact .inr (.inr (.inl ⟨hb, hn, hi, by simp [readBit, hb, hn, hp]⟩))
    · cases it with
      | eos => exact .inr (.inr (.inr (.inl ⟨q, hb, hn, hi, by simp [readBit, hb, hn, hp]⟩)))
      | ioerr =>
        exact .inr (.inr (.inr (.inr (.inl ⟨q, hb, hn, hi, by simp [readBit, hb, hn, hp]⟩))))
      | byte v =>
        exact .inr (.inr (.inr (.inr (.inr ⟨v, q, hb, hn, hi, by simp [readBit, hb, hn, hp]⟩))))
  · exact .inr (.inl ⟨hb, hn, by simp [readBit, hb, hn]⟩)

/-- Everything `SymbolConsumed` can do (R171). -/
theorem symbolConsumed_cases (w : Word) (s : State) :
    (s.budget = 0#40 ∧ symbolConsumed w s = .raised .budgetUnderflow w s) ∨
      (s.budget ≠ 0#40 ∧ symbolConsumed w s = .ok () (s.setBudget (s.budget - 1#40))) := by
  by_cases hb : s.budget = 0#40
  · exact .inl ⟨hb, by simp [symbolConsumed, hb]⟩
  · exact .inr ⟨hb, by simp [symbolConsumed, hb]⟩

/-- Everything counting a byte can do (R111). -/
theorem countByte_cases (b : Byte) (s : State) :
    (s.histAt b = 0xFFFFFFFF#32 ∧ countByte b s = .raised .countOverflow (b.setWidth 32) s) ∨
      (s.histAt b ≠ 0xFFFFFFFF#32 ∧ countByte b s = .ok () (s.setHist b (s.histAt b + 1#32))) := by
  by_cases h : s.histAt b = 0xFFFFFFFF#32
  · exact .inl ⟨h, by simp [countByte, h]⟩
  · exact .inr ⟨h, by simp [countByte, h]⟩

end Sys2Proof.Machine
end

