-- ==== Sys2Proof/Laws/Exec.lean ====
section
/-! SUPPORT. The dispatch as a whole: every command is the end of a run of its pseudocode. -/

namespace Sys2Proof.Machine

/-- Every command's meaning ends through `finish`, under its own command word. -/
theorem exec_is_finish (i : Instr) (s : State) : ∃ r, exec i s = finish (encode i) r := by
  cases i <;>
    simp only [exec, execNop, execHclr, execHcnt, execFrqout, execFrqin, execBuild, execGencodes,
      execBwbit, execBwcode, execBwclose, execEncb, execEnc, execBropen, execBrbit, execBrsym,
      execDecsym, execDec, execIskip] <;>
    exact ⟨_, rfl⟩

/-- No command stops the machine. -/
theorem exec_next (i : Instr) (s : State) : ∃ t, exec i s = .next t := by
  obtain ⟨r, h⟩ := exec_is_finish i s
  rw [h]
  exact finish_next _ r

end Sys2Proof.Machine
end

