-- ==== Sys2Proof/Laws/Loops.lean ====
section
/-! SUPPORT. What each command's loop can change, said once per loop: however the loop ends, its state is the
one it began with but for the fields named. -/

namespace Sys2Proof.Machine

/-- HCNT's loop changes HIST and the input queue only. -/
theorem hcntLoop_state (q : List InItem) (s : State) :
    ∃ h i, (hcntLoop q s).state = { s with hist := h, input := i } := by
  induction q generalizing s with
  | nil => exact ⟨s.hist, s.input, rfl⟩
  | cons it q ih =>
    cases it with
    | eos => exact ⟨s.hist, q, rfl⟩
    | ioerr => exact ⟨s.hist, q, rfl⟩
    | byte b =>
      rcases countByte_cases b (s.setInput q) with ⟨-, hc⟩ | ⟨-, hc⟩
      · exact ⟨s.hist, q, by simp only [hcntLoop, hc]; rfl⟩
      · obtain ⟨h, i, e⟩ := ih ((s.setInput q).setHist b ((s.setInput q).histAt b + 1#32))
        exact ⟨h, i, by simp only [hcntLoop, hc, Run.andThen_ok]; rw [e]; rfl⟩

/-- A push with its error check changes the output and the answers only. -/
theorem pushByte_state (p : Progress) (b : Byte) (s : State) :
    ∃ o a, (pushByte p b s).state = { s with output := o, answers := a } := by
  rcases pushByte_cases p b s with ⟨-, h⟩ | ⟨r, -, h⟩ | ⟨r, -, h⟩
  · exact ⟨s.output, s.answers, by simp [h]⟩
  · exact ⟨s.output ++ [b], r, by simp [h, State.deliver]⟩
  · exact ⟨s.output ++ [], r, by simp [h, State.deliver]⟩

/-- FRQOUT's loop changes the output and the answers only. -/
theorem frqoutFrom_state (n : Nat) (s : State) :
    ∃ o a, (frqoutFrom n s).state = { s with output := o, answers := a } := by
  induction n generalizing s with
  | zero => exact ⟨s.output, s.answers, rfl⟩
  | succ n ih =>
    rw [frqoutFrom]
    refine Run.andThen_state (R := fun s t => ∃ o a, t = { s with output := o, answers := a })
      ?_ (pushByte_state _ _ s) fun _ t _ => ih t
    rintro a b c ⟨o, r, rfl⟩ ⟨o', r', rfl⟩
    exact ⟨o', r', rfl⟩

/-- FRQIN's loop changes HIST and the input queue only. -/
theorem frqinFrom_state (n : Nat) (v : Word) (s : State) :
    ∃ h i, (frqinFrom n v s).state = { s with hist := h, input := i } := by
  induction n generalizing v s with
  | zero => exact ⟨s.hist, s.input, rfl⟩
  | succ n ih =>
    rcases pull_cases (.frqin ⟨1023 - n, by omega⟩ v) s with ⟨-, hp⟩ | ⟨it, q, -, hp⟩
    · exact ⟨s.hist, s.input, by simp [frqinFrom, hp]⟩
    · cases it with
      | eos => exact ⟨s.hist, q, by simp [frqinFrom, hp, State.setInput]⟩
      | ioerr => exact ⟨s.hist, q, by simp [frqinFrom, hp, State.setInput]⟩
      | byte b =>
        simp only [frqinFrom, hp, Run.andThen_ok]
        generalize hk : (⟨1023 - n, by omega⟩ : Fin 1024) = k
        obtain ⟨h, i, e⟩ := ih (if (1023 - n) % 4 = 3 then 0#32 else shiftInByte v b)
          (storeTableByte k (shiftInByte v b) (s.setInput q))
        rw [e]
        by_cases h3 : k.val % 4 = 3
        · exact ⟨h, i, by simp [storeTableByte, h3, State.setInput, State.setHist]⟩
        · exact ⟨h, i, by simp [storeTableByte, h3, State.setInput]⟩

/-- WriteBit changes the writer, the output and the answers only. -/
theorem writeBit_state (stream : Bool) (rest : List Bool) (b : Bool) (s : State) :
    ∃ x n o a, (writeBit stream rest b s).state =
      { s with bwAcc := x, bwNbits := n, output := o, answers := a } := by
  rcases writeBit_cases stream rest b s with ⟨h, e⟩ | ⟨-, e⟩
  · exact ⟨_, _, s.output, s.answers, by rw [e]; rfl⟩
  · obtain ⟨o, a, e'⟩ := pushByte_state (.write stream (shiftIn s.bwAcc b) rest)
      (shiftIn s.bwAcc b) (s.setWriter 0#8 0)
    exact ⟨0#8, 0, o, a, by rw [e, e']; rfl⟩

/-- Writing a bit list changes the writer, the output and the answers only. -/
theorem writeBits_state (stream : Bool) (bits : List Bool) (s : State) :
    ∃ x n o a, (writeBits stream bits s).state =
      { s with bwAcc := x, bwNbits := n, output := o, answers := a } := by
  induction bits generalizing s with
  | nil => exact ⟨s.bwAcc, s.bwNbits, s.output, s.answers, rfl⟩
  | cons b bs ih =>
    rw [writeBits]
    refine Run.andThen_state
      (R := fun s t => ∃ x n o a, t = { s with bwAcc := x, bwNbits := n, output := o, answers := a })
      ?_ (writeBit_state _ _ _ s) fun _ t _ => ih t
    rintro a b c ⟨x, n, o, r, rfl⟩ ⟨x', n', o', r', rfl⟩
    exact ⟨x', n', o', r', rfl⟩

/-- EncodeSymbol changes the writer, the output and the answers only. -/
theorem encodeSymbol_state (stream : Bool) (sym : Byte) (s : State) :
    ∃ x n o a, (encodeSymbol stream sym s).state =
      { s with bwAcc := x, bwNbits := n, output := o, answers := a } := by
  by_cases h : s.codeAt sym = []
  · exact ⟨s.bwAcc, s.bwNbits, s.output, s.answers, by simp [encodeSymbol, h]⟩
  · simpa [encodeSymbol, h] using writeBits_state stream (s.codeAt sym) s

/-- Close changes the writer, the output and the answers only. -/
theorem closeWriter_state (s : State) :
    ∃ x n o a, (closeWriter s).state =
      { s with bwAcc := x, bwNbits := n, output := o, answers := a } := by
  by_cases h : s.bwNbits = 0
  · exact ⟨s.bwAcc, s.bwNbits, s.output, s.answers, by rw [closeWriter, if_pos h]; rfl⟩
  · obtain ⟨o, a, e⟩ := pushByte_state (.close (padByte s.bwAcc s.bwNbits))
      (padByte s.bwAcc s.bwNbits) (s.setWriter 0#8 0)
    exact ⟨0#8, 0, o, a, by simp only [closeWriter, h, if_false]; rw [e]; rfl⟩

/-- ENC's loop changes the writer, the ports' queues and the output only. -/
theorem encLoop_state (q : List InItem) (s : State) :
    ∃ x n o a i, (encLoop q s).state =
      { s with bwAcc := x, bwNbits := n, output := o, answers := a, input := i } := by
  induction q generalizing s with
  | nil => exact ⟨s.bwAcc, s.bwNbits, s.output, s.answers, s.input, rfl⟩
  | cons it q ih =>
    cases it with
    | eos => exact ⟨s.bwAcc, s.bwNbits, s.output, s.answers, q, rfl⟩
    | ioerr => exact ⟨s.bwAcc, s.bwNbits, s.output, s.answers, q, rfl⟩
    | byte b =>
      simp only [encLoop]
      refine Run.andThen_state
        (R := fun s t => ∃ x n o a i,
          t = { s with bwAcc := x, bwNbits := n, output := o, answers := a, input := i })
        ?_ ?_ fun _ t _ => ih t
      · rintro a b c ⟨x, n, o, r, i, rfl⟩ ⟨x', n', o', r', i', rfl⟩
        exact ⟨x', n', o', r', i', rfl⟩
      · obtain ⟨x, n, o, a, e⟩ := encodeSymbol_state true b (s.setInput q)
        exact ⟨x, n, o, a, q, by rw [e]; rfl⟩

/-- ReadBit changes the reader's buffer and the input queue only. -/
theorem readBit_state (p : Progress) (s : State) :
    ∃ b n i, (readBit p s).state = { s with brBuf := b, brNleft := n, input := i } := by
  rcases readBit_cases p s with ⟨-, h⟩ | ⟨-, -, h⟩ | ⟨-, -, -, h⟩ | ⟨q, -, -, -, h⟩ |
    ⟨q, -, -, -, h⟩ | ⟨v, q, -, -, -, h⟩
  · exact ⟨s.brBuf, s.brNleft, s.input, by simp [h]⟩
  · exact ⟨_, _, s.input, by rw [h]; rfl⟩
  · exact ⟨s.brBuf, s.brNleft, s.input, by simp [h]⟩
  · exact ⟨s.brBuf, s.brNleft, q, by rw [h]; rfl⟩
  · exact ⟨s.brBuf, s.brNleft, q, by rw [h]; rfl⟩
  · exact ⟨_, _, q, by rw [h]; rfl⟩

/-- What the decoder changes before it writes RESULT: the reader, BUDGET, the ports' queues and the
output. -/
def decodeTouches (s t : State) : Prop :=
  ∃ b n i g o a,
    t = { s with brBuf := b, brNleft := n, input := i, budget := g, output := o, answers := a }

theorem decodeTouches_trans (a b c : State) (h : decodeTouches a b) (h' : decodeTouches b c) :
    decodeTouches a c := by
  obtain ⟨b1, n1, i1, g1, o1, a1, rfl⟩ := h
  obtain ⟨b2, n2, i2, g2, o2, a2, rfl⟩ := h'
  exact ⟨b2, n2, i2, g2, o2, a2, rfl⟩

/-- Counting a symbol touches only what the decoder touches. -/
theorem countSymbol_state (c : DecodeCmd) (sym : Byte) (t : State) :
    decodeTouches t (countSymbol c sym t).state := by
  refine Run.andThen_state decodeTouches_trans ?_ fun _ u _ => ?_
  · rcases symbolConsumed_cases c.word t with ⟨-, h⟩ | ⟨-, h⟩
    · exact ⟨t.brBuf, t.brNleft, t.input, t.budget, t.output, t.answers, by rw [h]; rfl⟩
    · exact ⟨t.brBuf, t.brNleft, t.input, t.budget - 1#40, t.output, t.answers, by rw [h]; rfl⟩
  · exact ⟨u.brBuf, u.brNleft, u.input, u.budget, u.output, u.answers, rfl⟩

/-- Emitting a symbol touches only what the decoder touches. -/
theorem emitSymbol_state (c : DecodeCmd) (sym : Byte) (s : State) :
    decodeTouches s (emitSymbol c sym s).state := by
  refine Run.andThen_state decodeTouches_trans ?_ fun _ t _ => countSymbol_state c sym t
  obtain ⟨o, a, e⟩ := pushByte_state (.emit c sym) sym s
  exact ⟨s.brBuf, s.brNleft, s.input, s.budget, o, a, e⟩

/-- The tree walk touches only what the decoder touches. -/
theorem walkTree_state (c : DecodeCmd) (n : Nat) (cur : NodeIx) (s : State) :
    decodeTouches s (walkTree c n cur s).state := by
  induction n generalizing cur s with
  | zero => exact ⟨s.brBuf, s.brNleft, s.input, s.budget, s.output, s.answers, rfl⟩
  | succ n ih =>
    rw [walkTree]
    refine Run.andThen_state decodeTouches_trans ?_ fun r t _ => ?_
    · obtain ⟨b, m, i, e⟩ := readBit_state (.walk c cur) s
      exact ⟨b, m, i, s.budget, s.output, s.answers, e⟩
    · have self : decodeTouches t t :=
        ⟨t.brBuf, t.brNleft, t.input, t.budget, t.output, t.answers, rfl⟩
      cases r with
      | none => exact self
      | some bit =>
        dsimp only
        split
        · exact self
        · split
          · exact emitSymbol_state c _ t
          · exact ih _ t

/-- DecodeSymbol touches only what the decoder touches. -/
theorem decodeSymbol_state (c : DecodeCmd) (s : State) :
    decodeTouches s (decodeSymbol c s).state := by
  have self : decodeTouches s s :=
    ⟨s.brBuf, s.brNleft, s.input, s.budget, s.output, s.answers, rfl⟩
  unfold decodeSymbol
  split
  · exact self
  · split
    · exact self
    · exact walkTree_state c _ _ s

/-- DEC's loop touches what the decoder touches, and RESULT. -/
theorem decLoop_state (n : Nat) (s : State) :
    ∃ t r, decodeTouches s t ∧ (decLoop n s).state = { t with result := r } := by
  induction n generalizing s with
  | zero =>
    exact ⟨s, Result.exhausted,
      ⟨s.brBuf, s.brNleft, s.input, s.budget, s.output, s.answers, rfl⟩, rfl⟩
  | succ n ih =>
    have hd := decodeSymbol_state .dec s
    cases h : decodeSymbol .dec s with
    | ok a t =>
      obtain ⟨u, r, hu, e⟩ := ih t
      rw [h] at hd
      exact ⟨u, r, decodeTouches_trans _ _ _ hd hu, by simp [decLoop, h, e]⟩
    | raised c i t => rw [h] at hd; exact ⟨t, t.result, hd, by simp [decLoop, h]⟩
    | held p t => rw [h] at hd; exact ⟨t, t.result, hd, by simp [decLoop, h]⟩

/-- ISKIP's loop changes the input queue only. -/
theorem iskipLoop_state (q : List InItem) (s : State) :
    ∃ i, (iskipLoop q s).state = { s with input := i } := by
  induction q generalizing s with
  | nil => exact ⟨s.input, rfl⟩
  | cons it q ih =>
    cases it with
    | eos => exact ⟨q, rfl⟩
    | ioerr => exact ⟨q, rfl⟩
    | byte b =>
      obtain ⟨i, e⟩ := ih (s.setInput q)
      exact ⟨i, by simp only [iskipLoop]; rw [e]; rfl⟩

end Sys2Proof.Machine
end

