-- ==== Sys2Proof/Laws/PerInstr.lean ====
section
/-! SUPPORT. Statements about every command as a term, one lemma per constructor. Family `OpcodeField`: the
command word carries the row's OPC in bits 31:24 and the operand in bits 23:0 (R91, R94). -/

namespace Sys2Proof.Laws.OpcodeField

/-- The word of a command splits into its row's OPC and its OPD. -/
def Statement (i : Instr) : Prop := opcOf (encode i) = i.opc ∧ opdOf (encode i) = i.opd

/-- The two fields of a word put together from them. -/
theorem of_fields (c : BitVec 8) (d : BitVec 24) :
    opcOf ((c.setWidth 32 <<< 24) ||| d.setWidth 32) = c ∧
      opdOf ((c.setWidth 32 <<< 24) ||| d.setWidth 32) = d := by
  constructor
  · apply BitVec.eq_of_getLsbD_eq
    intro i hi
    have h : ¬(24 + i < 24) := by omega
    simp [opcOf, hi, h, show 24 + i < 32 by omega]
  · apply BitVec.eq_of_getLsbD_eq
    intro i hi
    simp [opdOf, hi, show i < 32 by omega]

theorem nop : Statement .nop := of_fields _ _
theorem hclr : Statement .hclr := of_fields _ _
theorem hcnt : Statement .hcnt := of_fields _ _
theorem frqout : Statement .frqout := of_fields _ _
theorem frqin : Statement .frqin := of_fields _ _
theorem build : Statement .build := of_fields _ _
theorem gencodes : Statement .gencodes := of_fields _ _
theorem bwbit (val : BitVec 8) : Statement (.bwbit val) := of_fields _ _
theorem bwcode (len : BitVec 5) (bits : BitVec 16) : Statement (.bwcode len bits) := of_fields _ _
theorem bwclose : Statement .bwclose := of_fields _ _
theorem encb (sym : BitVec 8) : Statement (.encb sym) := of_fields _ _
theorem enc : Statement .enc := of_fields _ _
theorem bropen : Statement .bropen := of_fields _ _
theorem brbit : Statement .brbit := of_fields _ _
theorem brsym : Statement .brsym := of_fields _ _
theorem decsym : Statement .decsym := of_fields _ _
theorem dec : Statement .dec := of_fields _ _
theorem iskip : Statement .iskip := of_fields _ _

end Sys2Proof.Laws.OpcodeField
end

