-- ==== Sys2Proof/Machine/Script.lean ====
section
/-! DEFINITION. The host-action lines (R97) and the pseudo-commands (R98) as lists of host moves. None is
eager: each line waits for the core, and "every command line implies a WAIT after it" (R97). -/

namespace Sys2Proof.Machine

/-- A host move made when the core cannot move. -/
def patient (a : HostAction) : HostMove := { act := a, eager := false }

/-- The CMD register's address (R28). -/
def cmdAddr : RegAddr := wordAddr 0x014

/-- A command line: the CMD write and the WAIT it implies (R97). -/
def commandLine (i : Instr) : List HostMove :=
  [patient (.write cmdAddr (encode i)), patient .wait]

/-- `IN item, item, ...` (R97). -/
def inLine (items : List InItem) : List HostMove := items.map fun it => patient (.present it)

/-- `SINKFAIL k` (R97): the `k`-th push from here is answered IOERR and all others OK. -/
def sinkFailLine (k : Nat) : List HostMove := [patient (.sinkFail k)]

/-- `WR name, v` (R97), by the register's byte address. -/
def wrLine (byteAddr : BitVec 16) (v : Word) : List HostMove :=
  [patient (.write (wordAddr byteAddr) v)]

/-- `RD name` (R97), by the register's byte address. -/
def rdLine (byteAddr : BitVec 16) : List HostMove := [patient (.read (wordAddr byteAddr))]

/-- `SETBUDGET v` (R98): BUDGET_HI, then BUDGET_LO. -/
def setBudgetLines (v : Weight) : List HostMove :=
  wrLine 0x034 ((v.extractLsb' 32 8).setWidth 32) ++ wrLine 0x030 (v.extractLsb' 0 32)

/-- `CLEARERR` (R98). -/
def clearErrLine : List HostMove := wrLine 0x008 0x4

/-- BITS of a CODE operand holding a bit string of at most 16 bits (R93): its last bit is BITS[0]. -/
def packCode (bits : List Bool) : BitVec 16 :=
  bits.foldl (fun v b => (v <<< 1) ||| (BitVec.ofBool b).setWidth 16) 0#16

/-- `BWCODE "b1...bk"`, k ≤ 16 (R96): LEN is the string's length. -/
def bwcodeOf (bits : List Bool) : Instr := .bwcode (BitVec.ofNat 5 bits.length) (packCode bits)

/-- The BWCODEs `WRITECODE` expands to (R98): 16 bits each, the last one the rest, if any. `n` bounds their
number. -/
def writeCodeCmds : Nat → List Bool → List Instr
  | 0, _ => []
  | n + 1, bits =>
    if bits = [] then [] else bwcodeOf (bits.take 16) :: writeCodeCmds n (bits.drop 16)

/-- `WRITECODE "b1...bk"` (R98). -/
def writeCodeLines (bits : List Bool) : List HostMove :=
  (writeCodeCmds bits.length bits).flatMap commandLine

/-- `COMPRESS` (R98); the input is presented twice, each followed by END, with `inLine`. -/
def compressCmds : List Instr := [.hclr, .hcnt, .build, .gencodes, .frqout, .enc, .bwclose]

/-- `DECOMPRESS` (R98). -/
def decompressCmds : List Instr := [.frqin, .build, .dec, .iskip]

/-- A sequence of command lines. -/
def commandLines (is : List Instr) : List HostMove := is.flatMap commandLine

end Sys2Proof.Machine
end

