-- ==== Sys2Proof/Machine/Asm.lean ====
section
/-! DEFINITION. The textual syntax (R96 to R98): one command per line, the mnemonic, then its operands
separated by commas; a semicolon starts a comment; host-action lines and pseudo-commands beside it. Lines
are lists of characters. -/

namespace Sys2Proof.Machine

/-- The single quote, for `'A'` (R96). -/
def quoteChar : Char := Char.ofNat 0x27

/-- The double quote, for `"010"` (R96). -/
def doubleQuote : Char := Char.ofNat 0x22

/-- Spaces and tabs. -/
def isBlank (c : Char) : Bool := c == ' ' || c == Char.ofNat 9

/-- Cuts a line at every `sep` that stands outside quotes. That a semicolon or a comma inside quotes is text
(`ENCB ';'`, `IN 'a,b'`), and starts no comment and separates no operands, is DESIGN CHOICE (log entry 15); R96 says
only that a semicolon starts a comment. DESIGN CHOICE too (log entry 15): quotes pair off from left to right, a
quote of the other kind inside a pair being text, and one left without its pair holds the rest of the line as text;
so of `'''` the third quote is open, and a comment or comma after it is text. `q` is the quote now open, `acc` the piece being
read, last character first. -/
def splitOutside (sep : Char) : Option Char → List Char → List Char → List (List Char)
  | _, acc, [] => [acc.reverse]
  | none, acc, c :: cs =>
    if c == sep then acc.reverse :: splitOutside sep none [] cs
    else if c == quoteChar || c == doubleQuote then splitOutside sep (some c) (c :: acc) cs
    else splitOutside sep none (c :: acc) cs
  | some q, acc, c :: cs =>
    if c == q then splitOutside sep none (c :: acc) cs else splitOutside sep (some q) (c :: acc) cs

/-- The line without its comment (R96). -/
def withoutComment (line : List Char) : List Char := (splitOutside ';' none [] line).headD []

/-- Without leading and trailing blanks. -/
def trim (cs : List Char) : List Char := ((cs.dropWhile isBlank).reverse.dropWhile isBlank).reverse

/-- The value of one digit. -/
def digitValue (c : Char) : Option Nat :=
  if '0' ≤ c && c ≤ '9' then some (c.toNat - 0x30)
  else if 'a' ≤ c && c ≤ 'f' then some (c.toNat - 0x57)
  else if 'A' ≤ c && c ≤ 'F' then some (c.toNat - 0x37)
  else none

/-- A digit string in a base, on top of the value read so far. -/
def parseDigits (base : Nat) : Nat → List Char → Option Nat
  | n, [] => some n
  | n, c :: cs =>
    match digitValue c with
    | some d => if d < base then parseDigits base (base * n + d) cs else none
    | none => none

/-- A non-empty digit string. -/
def parseBase (base : Nat) (cs : List Char) : Option Nat :=
  if cs = [] then none else parseDigits base 0 cs

/-- A number (R96): `0x` hexadecimal, `0b` binary, decimal, or a quoted character standing for its US-ASCII
code (93 G1). R96 gives the quoted character to the SYM form and R97 to `IN`; that it is taken in every other number
field too (VAL of BWBIT, LEN and BITS of BWCODE, `v` of WR and SETBUDGET, the index of `HIST[i]`, `k` of SINKFAIL) is
DESIGN CHOICE (log entry 15). -/
def parseNumber (cs : List Char) : Option Nat :=
  match cs with
  | '0' :: 'x' :: ds => parseBase 16 ds
  | '0' :: 'b' :: ds => parseBase 2 ds
  | [a, c, b] =>
    if a == quoteChar && b == quoteChar then (if c.toNat < 128 then some c.toNat else none)
    else parseBase 10 cs
  | _ => parseBase 10 cs

/-- A quoted bit string (R96 `BWCODE "010"`). -/
def parseBits : List Char → Option (List Bool)
  | [] => some []
  | c :: cs =>
    if c == '0' then (parseBits cs).map (false :: ·)
    else if c == '1' then (parseBits cs).map (true :: ·)
    else none

/-- What stands between double quotes. -/
def unquote (cs : List Char) : Option (List Char) :=
  match cs with
  | [] => none
  | a :: rest =>
    if a == doubleQuote && rest.getLast? == some doubleQuote then some rest.dropLast else none

/-- A number that fits `n` bits. -/
def parseField (n : Nat) (cs : List Char) : Option (BitVec n) :=
  match parseNumber cs with
  | some v => if v < 2 ^ n then some (BitVec.ofNat n v) else none
  | none => none

/-- The mnemonics of the Z form commands (R94, R96). -/
def zMnemonics : List (List Char × Instr) :=
  [(['N', 'O', 'P'], .nop), (['H', 'C', 'L', 'R'], .hclr), (['H', 'C', 'N', 'T'], .hcnt),
   (['F', 'R', 'Q', 'O', 'U', 'T'], .frqout), (['F', 'R', 'Q', 'I', 'N'], .frqin),
   (['B', 'U', 'I', 'L', 'D'], .build), (['G', 'E', 'N', 'C', 'O', 'D', 'E', 'S'], .gencodes),
   (['B', 'W', 'C', 'L', 'O', 'S', 'E'], .bwclose), (['E', 'N', 'C'], .enc),
   (['B', 'R', 'O', 'P', 'E', 'N'], .bropen), (['B', 'R', 'B', 'I', 'T'], .brbit),
   (['B', 'R', 'S', 'Y', 'M'], .brsym), (['D', 'E', 'C', 'S', 'Y', 'M'], .decsym),
   (['D', 'E', 'C'], .dec), (['I', 'S', 'K', 'I', 'P'], .iskip)]

/-- One command from its mnemonic and operands (R96). -/
def parseOperands (mn : List Char) (ops : List (List Char)) : Option Instr :=
  match ops with
  | [] => zMnemonics.lookup mn
  | [a] =>
    if mn = ['B', 'W', 'B', 'I', 'T'] then (parseField 8 a).map Instr.bwbit
    else if mn = ['E', 'N', 'C', 'B'] then (parseField 8 a).map Instr.encb
    else if mn = ['B', 'W', 'C', 'O', 'D', 'E'] then
      match (unquote a).bind parseBits with
      | some bits => if bits.length ≤ 16 then some (bwcodeOf bits) else none
      | none => none
    else none
  | [a, b] =>
    if mn = ['B', 'W', 'C', 'O', 'D', 'E'] then
      match parseField 5 a, parseField 16 b with
      | some len, some bits => some (.bwcode len bits)
      | _, _ => none
    else none
  | _ => none

/-- A line's first word and its operands, the comment taken off (R96). -/
def splitLine (line : List Char) : List Char × List (List Char) :=
  let cs := trim (withoutComment line)
  let mn := cs.takeWhile fun c => !isBlank c
  let rest := trim (cs.drop mn.length)
  (mn, if rest = [] then [] else (splitOutside ',' none [] rest).map trim)

/-- One line of R96's syntax: a well-formed command, or none (a blank or comment line, a line of another
form, operands the command does not take; log entry 15). -/
def assemble (line : List Char) : Option Instr :=
  (parseOperands (splitLine line).1 (splitLine line).2).filter Instr.wf

/-! ### Host-action lines and pseudo-commands (R97, R98) -/

/-- Every element of a list of options, if all are there. -/
def allSome {α : Type} : List (Option α) → Option (List α)
  | [] => some []
  | x :: xs =>
    match x, allSome xs with
    | some a, some as => some (a :: as)
    | _, _ => none

/-- A quoted string's characters, between its first and its last quote, as bytes; an empty string is no item
(DESIGN CHOICE, log entry 15). "each character one BYTE, its US-ASCII code" (R97, 93 G1). -/
def parseString (cs : List Char) : Option (List InItem) :=
  match cs with
  | [] => none
  | q :: rest =>
    if (q == quoteChar || q == doubleQuote) && rest.getLast? == some q then
      allSome (rest.dropLast.map fun c =>
        if c.toNat < 128 then some (.byte (BitVec.ofNat 8 c.toNat)) else none)
    else none

/-- One operand of `IN` (R97): END, IOERR, a quoted string, or a number that is a byte. -/
def parseItem (cs : List Char) : Option (List InItem) :=
  if cs = ['E', 'N', 'D'] then some [.eos]
  else if cs = ['I', 'O', 'E', 'R', 'R'] then some [.ioerr]
  else
    match parseString cs with
    | some items => some items
    | none => (parseField 8 cs).map fun b => [.byte b]

/-- The register names of R62 with their offsets. -/
def registerNames : List (List Char × BitVec 16) :=
  [(['I', 'D'], 0x000), (['C', 'T', 'R', 'L'], 0x004), (['S', 'T', 'A', 'T', 'U', 'S'], 0x008),
   (['E', 'R', 'R', 'C', 'O', 'D', 'E'], 0x00C), (['E', 'R', 'R', 'I', 'N', 'F', 'O'], 0x010),
   (['C', 'M', 'D'], 0x014), (['R', 'E', 'S', 'U', 'L', 'T'], 0x018),
   (['N', 'D', 'I', 'S', 'T'], 0x01C), (['N', 'N', 'O', 'D', 'E', 'S'], 0x020),
   (['R', 'O', 'O', 'T'], 0x024), (['T', 'O', 'T', 'A', 'L', '_', 'L', 'O'], 0x028),
   (['T', 'O', 'T', 'A', 'L', '_', 'H', 'I'], 0x02C),
   (['B', 'U', 'D', 'G', 'E', 'T', '_', 'L', 'O'], 0x030),
   (['B', 'U', 'D', 'G', 'E', 'T', '_', 'H', 'I'], 0x034),
   (['B', 'W', '_', 'S', 'T', 'A', 'T', 'E'], 0x038), (['B', 'R', '_', 'S', 'T', 'A', 'T', 'E'], 0x03C)]

/-- A register's name, or `HIST[i]` (R30, R62), as its byte address. -/
def parseRegister (cs : List Char) : Option (BitVec 16) :=
  if cs.take 5 = ['H', 'I', 'S', 'T', '['] && cs.getLast? == some ']' then
    (parseField 8 (cs.drop 5).dropLast).map fun i => 0x400 + 4 * i.setWidth 16
  else registerNames.lookup cs

/-- One line of R96 to R98 as the host's moves, or none (log entry 15; `SINKFAIL 0` among them, since "k = 1 is the
next push"). DESIGN CHOICE (log entry 15): an `IN` line without an item is taken and makes no move. A command line carries its WAIT. -/
def hostLine (line : List Char) : Option (List HostMove) :=
  match (splitLine line).1, (splitLine line).2 with
  | ['I', 'N'], ops => (allSome (ops.map parseItem)).map fun items => inLine items.flatten
  | ['S', 'I', 'N', 'K', 'F', 'A', 'I', 'L'], [k] =>
    ((parseNumber k).filter fun k => k != 0).map sinkFailLine
  | ['W', 'R'], [name, v] =>
    match parseRegister name, parseField 32 v with
    | some addr, some v => some (wrLine addr v)
    | _, _ => none
  | ['R', 'D'], [name] => (parseRegister name).map rdLine
  | ['W', 'A', 'I', 'T'], [] => some [patient .wait]
  | ['S', 'E', 'T', 'B', 'U', 'D', 'G', 'E', 'T'], [v] => (parseField 40 v).map setBudgetLines
  | ['C', 'L', 'E', 'A', 'R', 'E', 'R', 'R'], [] => some clearErrLine
  | ['W', 'R', 'I', 'T', 'E', 'C', 'O', 'D', 'E'], [a] =>
    match (unquote a).bind parseBits with
    | some bits => if 16 < bits.length then some (writeCodeLines bits) else none
    | none => none
  | ['C', 'O', 'M', 'P', 'R', 'E', 'S', 'S'], [] => some (commandLines compressCmds)
  | ['D', 'E', 'C', 'O', 'M', 'P', 'R', 'E', 'S', 'S'], [] => some (commandLines decompressCmds)
  | _, _ => (assemble line).map commandLine

end Sys2Proof.Machine
end

