-- ==== Sys2Proof/Tests/Slice0.lean ====
section
/-! SUPPORT. The model's own tests: words written out from R91 and R94, ill-formed terms, one or two single
steps per command with the spec's expected values (95_test_vectors.md, or the rule's own example), and for
each statement with hypotheses a concrete state that meets them. -/

namespace Sys2Proof.Tests

open Sys2Proof Sys2Proof.Machine

-- One theorem at a time: each thread of its own reserves address space.
set_option Elab.async false

/-! ### Well-formedness: each check refuses an ill-formed term -/

theorem test_wf_bwbit_refuses_two : (Instr.bwbit 2#8).wf = false := by decide
theorem test_wf_bwcode_refuses_len_17 : (Instr.bwcode 17#5 0#16).wf = false := by decide
theorem test_wf_bwcode_refuses_bits_above_len : (Instr.bwcode 2#5 4#16).wf = false := by decide
theorem test_wf_bwcode_takes_len_16 : (Instr.bwcode 16#5 0xFFFF#16).wf = true := by decide

/-! ### Decoding: OPC and OPD written out bit by bit (R91, R92, R94) -/

theorem test_decode_nop : decode 0b00000000_000000000000000000000000#32 = .ok .nop := by decide
theorem test_decode_hclr : decode 0b00000001_000000000000000000000000#32 = .ok .hclr := by decide
theorem test_decode_hcnt : decode 0b00000010_000000000000000000000000#32 = .ok .hcnt := by decide
theorem test_decode_frqout : decode 0b00000011_000000000000000000000000#32 = .ok .frqout := by decide
theorem test_decode_frqin : decode 0b00000100_000000000000000000000000#32 = .ok .frqin := by decide
theorem test_decode_build : decode 0b00010000_000000000000000000000000#32 = .ok .build := by decide
theorem test_decode_gencodes : decode 0b00010001_000000000000000000000000#32 = .ok .gencodes := by
  decide
theorem test_decode_bwbit : decode 0b00100000_000000000000000000000001#32 = .ok (.bwbit 1#8) := by
  decide
theorem test_decode_bwcode :
    decode 0b00100001_000_00011_0000000000000010#32 = .ok (.bwcode 3#5 2#16) := by decide
theorem test_decode_bwclose : decode 0b00100010_000000000000000000000000#32 = .ok .bwclose := by
  decide
theorem test_decode_encb :
    decode 0b00100011_0000000000000000_01011010#32 = .ok (.encb 0x5A#8) := by decide
theorem test_decode_enc : decode 0b00100100_000000000000000000000000#32 = .ok .enc := by decide
theorem test_decode_bropen : decode 0b00110000_000000000000000000000000#32 = .ok .bropen := by decide
theorem test_decode_brbit : decode 0b00110001_000000000000000000000000#32 = .ok .brbit := by decide
theorem test_decode_brsym : decode 0b00110010_000000000000000000000000#32 = .ok .brsym := by decide
theorem test_decode_decsym : decode 0b00110011_000000000000000000000000#32 = .ok .decsym := by decide
theorem test_decode_dec : decode 0b00110100_000000000000000000000000#32 = .ok .dec := by decide
theorem test_decode_iskip : decode 0b00110101_000000000000000000000000#32 = .ok .iskip := by decide

/-- V-C3, V-C4: OPC 0x05 and 0xFF have no row. -/
theorem test_decode_illegal : decode 0x05000000#32 = .error .illegalCmd ∧
    decode 0xFF123456#32 = .error .illegalCmd := by decide

/-- V-W7, V-W8, V-W9, V-W17, V-W3, V-C2: each operand form's violation. -/
theorem test_decode_bad_operand : decode 0x21110000#32 = .error .badOperand ∧
    decode 0x21020004#32 = .error .badOperand ∧ decode 0x21210000#32 = .error .badOperand ∧
    decode 0x23000100#32 = .error .badOperand ∧ decode 0x20000002#32 = .error .badOperand ∧
    decode 0x00000001#32 = .error .badOperand := by decide

theorem test_decodeTableWord : decodeTableWord 32 0x2110A55A = some (.bwcode 16#5 0xA55A#16) ∧
    decodeTableWord 32 0x36000000 = none := by decide

/-! ### The textual syntax (R96) -/

/-- `BUILD ; x` -/
theorem test_assemble_build :
    assemble ['B', 'U', 'I', 'L', 'D', ' ', ';', ' ', 'x'] = some .build := by decide

/-- `BWCODE 3, 0b010` and `BWCODE "010"` are the same command. -/
theorem test_assemble_bwcode :
    assemble ['B', 'W', 'C', 'O', 'D', 'E', ' ', '3', ',', ' ', '0', 'b', '0', '1', '0'] =
      some (.bwcode 3#5 2#16) ∧
    assemble (['B', 'W', 'C', 'O', 'D', 'E', ' '] ++ [doubleQuote, '0', '1', '0', doubleQuote]) =
      some (.bwcode 3#5 2#16) := by decide

/-- `ENCB 0x41` and `ENCB 'A'`. -/
theorem test_assemble_encb :
    assemble ['E', 'N', 'C', 'B', ' ', '0', 'x', '4', '1'] = some (.encb 0x41#8) ∧
    assemble (['E', 'N', 'C', 'B', ' '] ++ [quoteChar, 'A', quoteChar]) = some (.encb 0x41#8) := by
  decide

/-- `WR HIST[0x41], 4` and `IN 'AB', END` (R97, V-P5's and P3's shapes). -/
theorem test_hostLine :
    hostLine ['W', 'R', ' ', 'H', 'I', 'S', 'T', '[', '0', 'x', '4', '1', ']', ',', ' ', '4'] =
      some [patient (.write (wordAddr 0x504#16) 4#32)] ∧
    hostLine (['I', 'N', ' '] ++ [quoteChar, 'A', 'B', quoteChar] ++ [',', ' ', 'E', 'N', 'D']) =
      some [patient (.present (.byte 0x41#8)), patient (.present (.byte 0x42#8)),
        patient (.present .eos)] := by decide

/-! ### Helpers -/

/-- The next state of a command. -/
def after (i : Instr) (s : State) : Option State :=
  match exec i s with
  | .next t => some t
  | .fault _ => none
  | .refused _ => none

/-- The next state of a step. -/
def stepped (s : State) : Option State :=
  match step s with
  | .next t => some t
  | .fault _ => none
  | .refused _ => none

/-- A core after reset whose command `i` is pending and about to begin. -/
def about (i : Instr) : State := latch (encode i) State.reset

/-- The word of a byte address's register, read while idle. -/
def readAt (byteAddr : BitVec 16) (s : State) : Word := regValue (Reg.ofAddr (wordAddr byteAddr)) s

/-- HIST of "AAB". -/
def histAAB : Vector Word 256 := (Vector.replicate 256 0#32).set 0x41 2#32 |>.set 0x42 1#32

/-- The one-symbol histogram of "AAAA". -/
def histAAAA : Vector Word 256 := (Vector.replicate 256 0#32).set 0x41 4#32

/-- The "AAAA" tree, built by hand from R131. -/
def treeAAAA : Tree :=
  { node := (Tree.empty.node.set 0 (.leaf 0x41#8 4#40)).set 1 (.internal 4#40 0 none)
    ndist := 1#9, nnodes := 2#10, root := some 1, total := 4#40 }

/-- The "AB" tree, by hand from V-T3. -/
def treeAB : Tree :=
  { node := ((Tree.empty.node.set 0 (.leaf 0x41#8 1#40)).set 1 (.leaf 0x42#8 1#40)).set 2
      (.internal 2#40 0 (some 1))
    ndist := 2#9, nnodes := 3#10, root := some 2, total := 2#40 }

/-- A core with a valid tree, an open reader and a budget. -/
def reading (t : Tree) (budget : Weight) (items : List InItem) (answers : List Answer) : State :=
  { State.reset with
    tree := t, treeValid := true, brOpen := true, budget := budget, input := items, answers := answers }

/-- A core with codes in place of "AAAA": CODE[0x41] = "0". -/
def coding : State :=
  { State.reset with
    treeValid := true, codesValid := true, code := (Vector.replicate 256 []).set 0x41 [false] }

/-! ### Single steps -/

/-- V-C1. -/
theorem test_nop : (after .nop (about .nop)).map statusWord = some 0x02#32 := by decide

/-- V-H1. -/
theorem test_hclr : (after .hclr { about .hclr with hist := histAAAA, treeValid := true }).map
    (fun t => (t.histAt 0x41#8, t.treeValid)) = some (0#32, false) := by decide

/-- V-H2. -/
theorem test_hcnt : (after .hcnt { about .hcnt with
      input := [.byte 0x41#8, .byte 0x41#8, .byte 0x42#8, .eos] }).map
    (fun t => (t.histAt 0x41#8, t.histAt 0x42#8, t.input, t.busy)) =
    some (2#32, 1#32, [], false) := by decide

/-- V-H5. -/
theorem test_hcnt_overflow : (after .hcnt { about .hcnt with
      hist := (Vector.replicate 256 0#32).set 0x41 0xFFFFFFFF#32
      input := [.byte 0x42#8, .byte 0x41#8, .byte 0x42#8, .eos] }).map
    (fun t => (t.errcode, t.errinfo, t.histAt 0x41#8, t.histAt 0x42#8, t.input)) =
    some (.countOverflow, 0x41#32, 0xFFFFFFFF#32, 1#32, [.byte 0x42#8, .eos]) := by decide

/-- FRQOUT with one answer delivers the first table byte and waits in the next push (R67, R113). -/
theorem test_frqout : (after .frqout { about .frqout with
      hist := (Vector.replicate 256 0#32).set 0 0x01020304#32, answers := [.ok] }).map
    (fun t => (t.output, t.busy, t.progress)) =
    some ([0x01#8], true, .frqout 1) := by decide

/-- V-H12. -/
theorem test_frqin_short : (after .frqin { about .frqin with
      input := [.byte 0#8, .byte 0#8, .byte 0#8, .byte 9#8, .byte 0#8, .eos] }).map
    (fun t => (t.errcode, t.errinfo, t.histAt 0#8, t.histAt 1#8)) =
    some (.malformedHeader, 5#32, 9#32, 0#32) := by decide

/-- V-T1: the empty tree is valid. -/
theorem test_build_empty : (after .build (about .build)).map
    (fun t => (t.treeValid, t.tree.root, t.tree.nnodes)) = some (true, none, 0#10) := by decide +kernel

/-- V-T4: "AAB" gives NODE[2] = internal, weight 3, left 1, right 0. -/
theorem test_build_aab : (Tree.ofHist histAAB).nodeAt 2 = .internal 3#40 1 (some 0) ∧
    (Tree.ofHist histAAB).root = some 2 := by decide +kernel

/-- V-T3's tree: CODE[0x41] = "0", CODE[0x42] = "1" (section 2.6, "AB"). -/
theorem test_gencodes : (after .gencodes { about .gencodes with tree := treeAB, treeValid := true }).map
    (fun t => (t.codeAt 0x41#8, t.codeAt 0x42#8, t.codeAt 0x43#8, t.codesValid)) =
    some ([false], [true], [], true) := by decide

/-- V-T11. -/
theorem test_gencodes_noTree : (after .gencodes (about .gencodes)).map
    (fun t => (t.errcode, t.errinfo)) = some (.noTree, 0x11000000#32) := by decide

/-- V-W2. -/
theorem test_bwbit : (after (.bwbit 1#8) { about (.bwbit 1#8) with
      bwAcc := 0x5A#8, bwNbits := 7, answers := [.ok] }).map
    (fun t => (t.bwAcc, t.bwNbits, t.output)) = some (0#8, 0, [0xB5#8]) := by decide

/-- V-W5. -/
theorem test_bwcode : (after (.bwcode 16#5 0xA55A#16) { about (.bwcode 16#5 0xA55A#16) with
      bwAcc := 0x7F#8, bwNbits := 7, answers := [.ok, .ok] }).map
    (fun t => (t.bwAcc, t.bwNbits, t.output)) = some (0x5A#8, 7, [0xFF#8, 0x4A#8]) := by decide

/-- V-W4. -/
theorem test_bwcode_short : (after (.bwcode 3#5 2#16) (about (.bwcode 3#5 2#16))).map
    (fun t => (t.bwAcc, t.bwNbits)) = some (2#8, 3) := by decide

/-- V-W10. -/
theorem test_bwclose : (after .bwclose { about .bwclose with
      bwAcc := 2#8, bwNbits := 3, answers := [.ok] }).map
    (fun t => (t.bwNbits, t.output)) = some (0, [0x40#8]) := by decide

/-- V-W15's case on the "AAAA" codes: a symbol without a code. -/
theorem test_encb_noCode : (after (.encb 0x5A#8) coding).map
    (fun t => (t.errcode, t.errinfo, t.bwNbits)) = some (.noCode, 0x5A#32, 0) := by decide

/-- V-W20. -/
theorem test_enc_noCode : (after .enc { coding with
      input := [.byte 0x41#8, .byte 0x42#8, .byte 0x41#8, .eos] }).map
    (fun t => (t.errcode, t.errinfo, t.bwNbits, t.input)) =
    some (.noCode, 0x42#32, 1, [.byte 0x41#8, .eos]) := by decide

/-- V-W18. -/
theorem test_enc : (after .enc { coding with
      input := [.byte 0x41#8, .byte 0x41#8, .byte 0x41#8, .byte 0x41#8, .eos] }).map
    (fun t => (t.bwAcc, t.bwNbits, t.output, t.input)) = some (0#8, 4, [], []) := by decide

/-- V-R1. -/
theorem test_bropen : (after .bropen { about .bropen with brBuf := 0xA5#8, brNleft := 3 }).map
    (fun t => (t.brBuf, t.brNleft, t.brOpen)) = some (0#8, 0, true) := by decide

/-- V-R2. -/
theorem test_brbit : (after .brbit (reading Tree.empty 1#40 [.byte 0x80#8] [])).map
    (fun t => (resultWord t.result, t.brBuf, t.brNleft)) = some (0x201#32, 0x80#8, 7) := by decide

/-- V-R5. -/
theorem test_brbit_corrupt : (after .brbit (reading Tree.empty 3#40 [.eos] [])).map
    (fun t => (t.errcode, t.errinfo, t.budget)) = some (.corruptBody, 3#32, 3#40) := by decide

/-- V-R8, V-R9. -/
theorem test_brsym : (after .brsym (reading Tree.empty 2#40 [] [])).map (fun t => t.budget) =
      some 1#40 ∧
    (after .brsym (reading Tree.empty 0#40 [] [])).map (fun t => (t.errcode, t.errinfo)) =
      some (.budgetUnderflow, 0x32000000#32) := by decide

/-- V-R10. -/
theorem test_decsym : (after .decsym (reading treeAAAA 4#40 [.byte 0#8] [.ok])).map
    (fun t => (t.output, resultWord t.result, t.budget, t.brNleft)) =
    some ([0x41#8], 0x241#32, 3#40, 7) := by decide

/-- V-R11. -/
theorem test_decsym_missingChild : (after .decsym (reading treeAAAA 4#40 [.byte 0x80#8] [.ok])).map
    (fun t => (t.errcode, t.errinfo, t.budget, t.output)) =
    some (.missingChild, 1#32, 4#40, []) := by decide

/-- V-R16. -/
theorem test_dec : (after .dec (reading treeAAAA 0#40 [.byte 0#8, .eos] [.ok, .ok, .ok, .ok])).map
    (fun t => (t.output, t.budget, t.brNleft, t.input)) =
    some ([0x41#8, 0x41#8, 0x41#8, 0x41#8], 0#40, 4, [.eos]) := by decide

/-- V-R22. -/
theorem test_dec_sinkFail : (after .dec (reading treeAAAA 0#40 [.byte 0#8, .eos] [.ok, .ok, .ioerr])).map
    (fun t => (t.errcode, t.errinfo, t.budget, t.brNleft)) =
    some (.underlyingIo, 1#32, 2#40, 5) := by decide

/-- V-R23, V-R24. -/
theorem test_iskip : (after .iskip { about .iskip with
        input := [.byte 1#8, .byte 2#8, .eos, .byte 3#8] }).map (fun t => t.input) =
      some [.byte 3#8] ∧
    (after .iskip { about .iskip with input := [.byte 1#8, .ioerr, .byte 2#8, .eos] }).map
      (fun t => (t.errcode, t.input)) = some (.underlyingIo, [.byte 2#8, .eos]) := by decide

/-! ### The step, waiting and the host -/

/-- The command word fetched by a step runs (R90). -/
theorem test_withFetchWord : (stepped (State.reset.withFetchWord 32 0x30000000)).map
    (fun t => (t.brOpen, t.busy, t.done)) = some (true, false, true) := by decide

/-- V-C3 through a step. -/
theorem test_step_illegal : (stepped (State.reset.withFetchWord 32 0x05000000)).map
    (fun t => (t.errcode, t.errinfo, t.done)) = some (.illegalCmd, 0x05000000#32, true) := by decide

/-- A command that waits goes on when the host presents the item (R66). -/
theorem test_wait_then_go : ((stepped (about .iskip)).map fun t => (t.busy, coreTurn t)) =
      some (true, false) ∧
    ((stepped (about .iskip)).bind fun t =>
      stepped (perform (.present .eos) t)).map (fun t => (t.busy, t.done, t.input)) =
      some (false, true, []) := by decide

/-- R242: the byte a push was answered OK for stays delivered when reset comes before the core goes on, and the
answer does not serve a later push. -/
theorem test_answer_then_reset :
    (stepped { about .bwclose with bwAcc := 2#8, bwNbits := 3 }).map (fun t =>
      let u := perform .releaseReset (perform .assertReset (perform (.answer .ok) t))
      (u.output, u.answers, u.reply, u.busy, u.done)) = some ([0x40#8], [], none, false, false) := by decide

/-- R240: nothing written while `rst` is asserted has an effect; the first CMD write after it is accepted. -/
theorem test_rst_level :
    let held := perform .assertReset (about .iskip)
    perform (.write (wordAddr 0x004#16) 1#32) held = held ∧
    perform (.write (wordAddr 0x014#16) 0#32) held = held ∧ held.busy = false ∧
    (perform (.write (wordAddr 0x014#16) 0#32) (perform .releaseReset held)).busy = true :=
  ⟨rfl, rfl, rfl, rfl⟩

/-- Log entry 15: a separator inside quotes is text, and an `IN` line may name no item. -/
theorem test_quotes_and_empty_in :
    assemble ['E', 'N', 'C', 'B', ' ', quoteChar, ';', quoteChar] = some (.encb 0x3B#8) ∧
    hostLine (['I', 'N', ' '] ++ [quoteChar, ',', quoteChar]) =
      some [patient (.present (.byte 0x2C#8))] ∧
    hostLine ['I', 'N'] = some [] ∧ hostLine ['I', 'N', ' ', quoteChar, quoteChar] = some [] := by decide

/-- Log entry 15: a quote character quoted by itself is a character, but leaves a quote open for what follows. -/
theorem test_quoted_quote :
    assemble (['E', 'N', 'C', 'B', ' '] ++ [quoteChar, quoteChar, quoteChar]) = some (.encb 0x27#8) ∧
    assemble (['E', 'N', 'C', 'B', ' '] ++ [quoteChar, quoteChar, quoteChar] ++ [' ', ';', ' ', 'x']) = none ∧
    hostLine (['I', 'N', ' '] ++ [quoteChar, quoteChar, quoteChar] ++ [',', ' ', 'E', 'N', 'D']) = none := by
  decide

/-- `SINKFAIL 2` (R97): a command line's pushes are answered OK, IOERR and then OK again, however many they are, and
answers left over from before do not count. -/
theorem test_sinkFail :
    hostLine ['S', 'I', 'N', 'K', 'F', 'A', 'I', 'L', ' ', '2'] = some [patient (.sinkFail 2)] ∧
    hostLine ['S', 'I', 'N', 'K', 'F', 'A', 'I', 'L', ' ', '0'] = none ∧
    (let offer (s : State) : State := { s with progress := .close 7#8, reply := none }
     let a := hostStep (offer (perform (.sinkFail 2) { State.reset with answers := [.ioerr] }))
     let b := hostStep (offer a)
     let c := hostStep (offer b)
     [a.reply, b.reply, c.reply] = [some .ok, some .ioerr, some .ok] ∧ c.output = [7#8, 7#8]) := by
  decide

/-- V-C7: a CMD write while ERR = 1 is refused. -/
theorem test_cmd_refused :
    (fun t : State => (t.rej, t.busy, t.errcode))
      (writeReg .cmd 0x01000000#32 { State.reset with err := true, errcode := .illegalCmd }) =
    (true, false, .illegalCmd) := by decide

/-- V-P21: SRST wins over bit 0. -/
theorem test_soft_reset : (writeReg .ctrl 3#32 { State.reset with ie := true, done := true }).ie = false ∧
    (writeReg .ctrl 1#32 State.reset).ie = true := by decide

/-- V-P1, V-P2, V-P3, V-P4. -/
theorem test_reads_after_reset : readAt 0x000#16 State.reset = 0x48554631#32 ∧
    readAt 0x040#16 State.reset = 0#32 ∧ readAt 0x014#16 State.reset = 0#32 ∧
    readAt 0x024#16 State.reset = 0x80000000#32 := by decide

/-- V-P7, V-P8. -/
theorem test_node_window : readAt 0x2000#16 (reading treeAAAA 0#40 [] []) = 0xC0000041#32 ∧
    readAt 0x2004#16 (reading treeAAAA 0#40 [] []) = 4#32 ∧
    readAt 0x2010#16 (reading treeAAAA 0#40 [] []) = 0xA0000000#32 ∧
    readAt 0x2020#16 (reading treeAAAA 0#40 [] []) = 0#32 := by decide

/-- V-P12's shape: CODE[0x42] = "110" at 0x5080 and 0x5084. -/
theorem test_code_window :
    readAt 0x5080#16 { coding with code := coding.code.set 0x42 [true, true, false] } = 3#32 ∧
    readAt 0x5084#16 { coding with code := coding.code.set 0x42 [true, true, false] } =
      0xC0000000#32 := by decide +kernel

/-- V-P18. -/
theorem test_budgetHi : (writeReg .budgetHi 0x1FF#32 State.reset).budget = 0xFF00000000#40 := by decide

/-- V-P20. -/
theorem test_irq : (complete { about .nop with ie := true }).irq = true ∧
    (writeReg .status 2#32 (complete { about .nop with ie := true })).irq = false := by decide

/-- SETBUDGET (R98) writes BUDGET_HI then BUDGET_LO. -/
theorem test_setBudget :
    setBudgetLines 0x0100000002#40 =
      [patient (.write (wordAddr 0x034#16) 1#32), patient (.write (wordAddr 0x030#16) 2#32)] := by
  decide

/-! ### Witnesses: concrete states and operands that meet each statement's hypotheses -/

/-- A command about to begin, no tree yet. -/
def raw (i : Instr) (h : Vector Word 256) (isOpen : Bool) (g : Weight) (q : List InItem)
    (a : List Answer) : State :=
  { about i with hist := h, brOpen := isOpen, budget := g, input := q, answers := a }

/-- A command about to begin, with the tree and the codes of HIST in place. -/
def ready (i : Instr) (h : Vector Word 256) (isOpen : Bool) (g : Weight) (q : List InItem)
    (a : List Answer) : State :=
  { raw i h isOpen g q a with
    tree := Tree.ofHist h, treeValid := true, code := codesOf (Tree.ofHist h), codesValid := true }

/-- DECSYM waiting in the "AAAA" tree for a bit. -/
def walking : State :=
  { ready .decsym histAAAA true 4#40 [] [] with progress := .walk .decsym 1 }

/-- HIST all zero. -/
def histZero : Vector Word 256 := Vector.replicate 256 0#32

/-- Every symbol once. -/
def histFull : Vector Word 256 := Vector.replicate 256 1#32

/-- One symbol one short of the cap. -/
def histNearCap : Vector Word 256 := histZero.set 0x41 0xFFFFFFFE#32

theorem raw_inv (i : Instr) (h : Vector Word 256) (o : Bool) (g : Weight) (q : List InItem)
    (a : List Answer) : Inv (raw i h o g q a) := by
  constructor <;> simp [raw, about, latch, State.reset, writerClean, Result.zero, Progress.inWalk,
    Progress.inCount, Progress.inWriterPush, Progress.inPush]

theorem ready_inv (i : Instr) (h : Vector Word 256) (o : Bool) (g : Weight) (q : List InItem)
    (a : List Answer) : Inv (ready i h o g q a) := by
  constructor <;> simp [ready, raw, about, latch, State.reset, writerClean, Result.zero,
    Progress.inWalk, Progress.inCount, Progress.inWriterPush, Progress.inPush]

/-- A state of the invariant with a valid tree, an open reader and a budget, put to wait inside a walk. -/
theorem inv_walk (s : State) (r : Inv s) (cur : NodeIx) (hw : s.pending = some (encode .decsym))
    (hb : s.budget ≠ 0#40) (ht : s.treeValid = true) (ho : s.brOpen = true) (hr : s.reply = none)
    (hs : s.rst = false) (hn : ∃ w l r, s.tree.nodeAt cur = .internal w l r) :
    Inv { s with progress := .walk .decsym cur } where
  busy_pending := r.busy_pending
  idle_start h := absurd (r.busy_pending.symm.trans h) (by simp [hw])
  waits_own w h _ := ⟨.decsym, by
    obtain rfl : encode .decsym = w := Option.some.inj (hw.symm.trans h)
    exact ⟨by decide, rfl⟩⟩
  done_idle := r.done_idle
  busy_noErr := r.busy_noErr
  err_code := r.err_code
  noErr_info := r.noErr_info
  codes_tree := r.codes_tree
  tree_hist := r.tree_hist
  codes_of := r.codes_of
  writer_clean := r.writer_clean
  exh_value := r.exh_value
  invalid_result := r.invalid_result
  walk_budget _ := ⟨hb, ht, ho⟩
  walk_node _ _ h := by
    obtain ⟨-, rfl⟩ := Progress.walk.inj h
    exact hn
  count_invalid h := absurd h (by simp [Progress.inCount])
  push_empty h := absurd h (by simp [Progress.inWriterPush])
  reply_push h := absurd hr h
  push_answers h := absurd h (by simp [Progress.inPush])
  rst_held h := absurd (hs.symm.trans h) (by simp)

/-- The invariant of a state that waits inside a tree walk. -/
theorem walking_inv : Inv walking :=
  inv_walk _ (ready_inv .decsym histAAAA true 4#40 [] []) 1 rfl (by simp [ready, raw]) rfl rfl rfl rfl
    ⟨4#40, 0, none, by decide +kernel⟩

theorem occurring_histZero : occurring histZero = [] := by simp [occurring, histZero]

theorem occurring_histFull : occurring histFull = symbols := by simp [occurring, histFull]

theorem length_histFull : (occurring histFull).length = 256 := by
  simp [occurring_histFull, symbols]

theorem occurring_histAAAA : occurring histAAAA = [0x41#8] := by
  simp only [occurring, histAAAA, Vector.getElem_set, Vector.getElem_replicate]
  decide +kernel

theorem occurring_histAAB : occurring histAAB = [0x41#8, 0x42#8] := by
  simp only [occurring, histAAB, Vector.getElem_set, Vector.getElem_replicate]
  decide +kernel

theorem witness_DecodeOfEncode : (Instr.bwcode 16#5 0xFFFF#16).wf = true ∧
    (Instr.bwcode 0#5 0#16).wf = true ∧ (Instr.bwbit 1#8).wf = true ∧
    (Instr.encb 0xFF#8).wf = true := by decide

theorem witness_EncodeOfDecode : decode 0x2110FFFF#32 = .ok (.bwcode 16#5 0xFFFF#16) := by decide

theorem witness_IllegalOpcodeRaisesIllegalCmd :
    let s := latch 0xFF123456#32 State.reset
    s.rst = false ∧ s.busy = true ∧ s.pending = some 0xFF123456#32 ∧ s.progress = .start ∧ hostFirst s = false ∧
    opcOf 0xFF123456#32 ∉ opcodes ∧ opcOf 0x05000000#32 ∉ opcodes ∧
    (opcOf 0x23000100#32 ∈ opcodes ∧ reservedOperand (opcOf 0x23000100#32) (opdOf 0x23000100#32).toNat ≠ 0) ∧
    (opcOf 0x21200000#32 ∈ opcodes ∧ reservedOperand (opcOf 0x21200000#32) (opdOf 0x21200000#32).toNat ≠ 0) ∧
    (opcOf 0x35000001#32 ∈ opcodes ∧
      reservedOperand (opcOf 0x35000001#32) (opdOf 0x35000001#32).toNat ≠ 0) := by
  simp [reservedOperand, opcodes, opcOf, opdOf, latch, State.reset, hostFirst]

theorem witness_IllegalOperandRaisesBadOperand :
    (let s := latch 0x31000001#32 State.reset
     s.rst = false ∧ s.busy = true ∧ s.pending = some 0x31000001#32 ∧ s.progress = .start ∧ hostFirst s = false) ∧
    (∀ w ∈ [0x31000001#32, 0x20000002#32, 0x21020004#32, 0x21110000#32, 0x21210000#32, 0x23000100#32],
      opcOf w ∈ opcodes ∧ ¬operandLegal (opcOf w) (opdOf w).toNat) ∧
    ∀ w ∈ [0x31000000#32, 0x20000001#32, 0x2110FFFF#32, 0x21000000#32, 0x230000FF#32],
      opcOf w ∈ opcodes ∧ operandLegal (opcOf w) (opdOf w).toNat := by
  simp [operandLegal, opcodes, opcOf, opdOf, latch, State.reset, hostFirst]

theorem witness_StepRunsDecodedCommand :
    let s := about .decsym
    s.rst = false ∧ s.busy = true ∧ s.pending = some 0x33000000#32 ∧ s.progress = .start ∧ hostFirst s = false ∧
    decode 0x33000000#32 = .ok .decsym := by decide

theorem witness_StepIsCoreOrHostMove :
    coreTurn State.reset = false ∧ coreTurn (about .nop) = true ∧
    (let s := { about .bwclose with progress := .close 7#8, sink := some 1 }
     s.sink = some 1 ∧ offeredByte s = some 7#8 ∧ s.reply = none ∧ hostFirst s = false) ∧
    State.reset.sink = none := by decide

theorem witness_ErrIsSetByErrorEntryOnly :
    (about .brsym).err = false ∧ (stepped (about .brsym)).map (·.err) = some true := by decide

/-- The next state of the core's move. -/
def moved (s : State) : Option State :=
  match coreStep s with
  | .next t => some t
  | .fault _ => none
  | .refused _ => none

/-- One state for each error code a running command can raise; `raw_inv` and `ready_inv` give the
invariant. -/
theorem witness_ErrorCodesAndInfoOfEachCommand :
    ([raw .frqin histZero false 0#40 [.eos] [], raw .brbit histZero true 1#40 [.eos] [],
      raw .hcnt histZero false 0#40 [.ioerr] [], raw .gencodes histZero false 0#40 [] [],
      raw .enc histZero false 0#40 [] [], raw .brbit histZero false 0#40 [] [],
      ready .enc histZero false 0#40 [.byte 0xFF#8] [],
      raw .hcnt (histZero.set 0 0xFFFFFFFF#32) false 0#40 [.byte 0#8] [],
      ready .decsym histZero true 1#40 [] [], raw .brsym histZero true 0#40 [] []].map fun s =>
        (moved s).map fun t => (t.err, t.errcode)) =
    [.malformedHeader, .corruptBody, .underlyingIo, .noTree, .noCodes, .notOpen, .noCode,
      .countOverflow, .missingChild, .budgetUnderflow].map fun c => some (true, c) := by
  decide +kernel

/-- MISSING_CHILD at the one-child node, its index below NNODES. -/
theorem witness_ErrorCodesAndInfoOfEachCommand_oneChild :
    (moved (ready .decsym histAAAA true 1#40 [.byte 0x80#8] [])).map
      (fun t => (t.errcode, t.errinfo, t.tree.nnodes, t.tree.nodeAt 1)) =
    some (.missingChild, 1#32, 2#10, .internal 4#40 0 none) := by decide +kernel

theorem witness_PreconditionErrors :
    State.reset.treeValid = false ∧ State.reset.codesValid = false ∧ State.reset.brOpen = false ∧
    (ready .decsym histAAAA false 1#40 [] []).brOpen = false ∧
    (ready .decsym histAAAA false 1#40 [] []).treeValid = true := by
  exact ⟨rfl, rfl, rfl, rfl, rfl⟩

theorem witness_NopOnlyCompletes :
    opcOf 0x00000001#32 = 0x00#8 ∧ opdOf 0x00000001#32 ≠ 0#24 ∧
    opcOf 0x00FFFFFF#32 = 0x00#8 ∧ opdOf 0x00FFFFFF#32 ≠ 0#24 ∧
    (let s := latch 0x00FFFFFF#32 State.reset
     s.rst = false ∧ s.busy = true ∧ s.pending = some 0x00FFFFFF#32 ∧ s.progress = .start ∧ hostFirst s = false) ∧
    { State.reset with err := true, errcode := .noTree }.err = true := by decide

/-- All of it at the cap: the counter reaches 0xFFFFFFFF, and the next byte overflows it. -/
theorem witness_HcntCountsTheStream :
    countsFit histNearCap [0x41#8] ∧
    (raw .hcnt histNearCap false 0#40 [.byte 0x41#8, .eos, .eos] []).input =
      asItems [0x41#8] ++ .eos :: [.eos] ∧
    (raw .hcnt histNearCap false 0#40 [.byte 0x41#8, .ioerr] []).input =
      asItems [0x41#8] ++ .ioerr :: [] ∧
    (raw .hcnt histNearCap false 0#40 [.byte 0x41#8, .byte 0x41#8] []).input =
      asItems [0x41#8] ++ .byte 0x41#8 :: [] ∧
    countOf (countedHist histNearCap [0x41#8]) 0x41#8 = 0xFFFFFFFF#32 ∧
    (raw .hcnt histNearCap false 0#40 [.byte 0x41#8] []).input = asItems [0x41#8] := by
  refine ⟨fun i => ?_, rfl, rfl, rfl, ?_, rfl⟩
  · by_cases h : 0x41 = i.val
    · simp [histNearCap, histZero, ← h]
    · simp only [histNearCap, histZero, List.count_singleton, Vector.getElem_set, h,
        if_false, Vector.getElem_replicate]
      split <;> decide
  · simp [countOf, countedHist, histNearCap, histZero]

/-- A short stream fits the counters. -/
theorem countsFit_zero (bytes : List Byte) (h : bytes.length < 2 ^ 32) :
    countsFit (Vector.replicate 256 0#32) bytes := by
  intro i
  simpa using Nat.lt_of_le_of_lt List.count_le_length h

/-- Any `n` < 2^32 bytes of one value and as many of another fit too: with `n` = 2^31 they are 2^32 bytes, and the
hypothesis bounds no length (91 N7). -/
theorem countsFit_long (n : Nat) (h : n < 2 ^ 32) :
    countsFit (Vector.replicate 256 0#32) (List.replicate n 0x41#8 ++ List.replicate n 0x42#8) ∧
    (List.replicate n 0x41#8 ++ List.replicate n 0x42#8).length = 2 * n := by
  refine ⟨fun i => ?_, by simp; omega⟩
  generalize BitVec.ofNat 8 i.val = v
  simp only [Vector.getElem_replicate, List.count_append, List.count_replicate, beq_iff_eq]
  have h0 : (0#32).toNat = 0 := rfl
  have hne : (0x41#8 = v ∧ 0x42#8 = v) → False := fun ⟨a, b⟩ => absurd (a.trans b.symm) (by decide)
  split <;> split
  · exact absurd ⟨‹_›, ‹_›⟩ hne
  all_goals omega

theorem witness_HistogramConservation :
    let s := raw .hclr histAAB false 0#40 [.byte 0x41#8, .eos] []
    s.input = asItems [0x41#8] ++ .eos :: [] ∧ countsFit (Vector.replicate 256 0#32) [0x41#8] ∧
    ∃ u, exec .hclr s = .next u := ⟨rfl, countsFit_zero _ (by decide), _, rfl⟩

theorem witness_FrqoutWritesTheTable :
    sinkAccepts 1024 (raw .frqout histAAB false 0#40 [] (List.replicate 1024 .ok)) ∧
    0 < 1024 ∧ (raw .frqout histAAB false 0#40 [] [.ioerr]).answers =
      List.replicate 0 .ok ++ .ioerr :: [] ∧
    1023 < 1024 ∧
    (raw .frqout histAAB false 0#40 [] (List.replicate 1023 .ok ++ [.ioerr, .ok])).answers =
      List.replicate 1023 .ok ++ .ioerr :: [.ok] ∧
    (raw .frqout histAAB false 0#40 [] []).answers = List.replicate 0 .ok ∧
    (raw .frqout histAAB false 0#40 [] (List.replicate 1023 .ok)).answers = List.replicate 1023 .ok := by
  refine ⟨?_, by decide, rfl, by decide, by simp only [raw], rfl, by simp only [raw]⟩
  unfold sinkAccepts raw
  exact List.take_of_length_le (Nat.le_of_eq List.length_replicate)

theorem witness_FrqinReadsTheTable :
    let full := List.replicate 1024 7#8
    let short := List.replicate 1023 7#8
    full.length = 1024 ∧
    (raw .frqin histAAB false 0#40 (asItems full ++ [.eos]) []).input = asItems full ++ [.eos] ∧
    short.length < 1024 ∧
    (raw .frqin histAAB false 0#40 (asItems short ++ [.eos]) []).input =
      asItems short ++ .eos :: [] ∧
    (raw .frqin histAAB false 0#40 [.ioerr, .eos] []).input = asItems [] ++ .ioerr :: [.eos] ∧
    (raw .frqin histAAB false 0#40 (asItems short) []).input = asItems short := by
  intro full short
  refine ⟨List.length_replicate, by simp only [raw], ?_, by simp only [raw], rfl, by simp only [raw]⟩
  simp only [short, List.length_replicate]
  decide

theorem witness_BuildAndGencodesRecord :
    (ready .gencodes histAAB false 0#40 [] []).treeValid = true := rfl

theorem witness_TreesOfZeroAndOneSymbol :
    occurring histZero = [] ∧ occurring histAAAA = [0x41#8] :=
  ⟨occurring_histZero, occurring_histAAAA⟩

theorem witness_LeavesInSymbolOrder :
    (0 : NodeIx).val < (occurring histAAAA).length ∧
    (255 : NodeIx).val < (occurring histFull).length := by
  rw [occurring_histAAAA, length_histFull]
  decide

theorem witness_MergesTakeTheTwoLightest :
    (occurring histAAB).length = 2 ∧ (occurring histFull).length = 256 ∧
    2 ≤ (2 : NodeIx).val ∧ (2 : NodeIx).val < 2 * 2 - 1 ∧ 256 ≤ (256 : NodeIx).val ∧
    (510 : NodeIx).val < 2 * 256 - 1 :=
  ⟨by rw [occurring_histAAB]; rfl, length_histFull, by decide, by decide, by decide, by decide⟩

theorem witness_RootWeightIsTotal : occurring histAAAA ≠ [] ∧ occurring histFull ≠ [] := by
  refine ⟨by simp [occurring_histAAAA], fun h => ?_⟩
  simpa [h] using length_histFull

theorem witness_CodesArePathsToLeaves :
    countOf histAAB 0x43#8 = 0#32 ∧ countOf histAAB 0x41#8 ≠ 0#32 := by decide

theorem witness_CodeLengthBounds :
    0x41#8 ∈ occurring histAAAA ∧ (occurring histAAAA).length = 1 ∧
    0x42#8 ∈ occurring histAAB ∧ 2 ≤ (occurring histAAB).length := by
  simp [occurring_histAAAA, occurring_histAAB]

theorem witness_CodesArePrefixFree :
    0x41#8 ∈ occurring histAAB ∧ 0x42#8 ∈ occurring histAAB ∧ 0x41#8 ≠ 0x42#8 := by
  simp [occurring_histAAB]

theorem witness_CodesOfAnyBytesDecodeToThem :
    countsFit (Vector.replicate 256 0#32) [] ∧
    countsFit (Vector.replicate 256 0#32) [0x41#8, 0x41#8, 0x42#8] :=
  ⟨countsFit_zero _ (by decide), countsFit_zero _ (by decide)⟩

/-- BW_NBITS at 0 and 6 for a bit that stays, at 7 with each answer for one that completes a byte. -/
theorem witness_BwbitWritesOneBit :
    2 ≤ (2#8).toNat ∧ 2 ≤ (0xFF#8).toNat ∧ (0#8).toNat < 2 ∧ (1#8).toNat < 2 ∧
    (1 : Fin 8).val = State.reset.bwNbits.val + 1 ∧
    (7 : Fin 8).val = { State.reset with bwNbits := 6 }.bwNbits.val + 1 ∧
    { State.reset with bwNbits := 7 }.bwNbits = 7 ∧
    { State.reset with bwNbits := 7 }.answers = [] ∧
    { State.reset with bwNbits := 7, answers := [.ok] }.answers = .ok :: [] ∧
    { State.reset with bwNbits := 7, answers := [.ioerr] }.answers = .ioerr :: [] := by decide

theorem witness_BwcodeWritesItsBits :
    ¬((17#5).toNat ≤ 16 ∧ (0#16).toNat < 2 ^ (17#5).toNat) ∧
    ¬((0#5).toNat ≤ 16 ∧ (1#16).toNat < 2 ^ (0#5).toNat) ∧
    (let s := { State.reset with bwAcc := 0x7F#8, bwNbits := 7, answers := [.ok, .ok] }
     (16#5).toNat ≤ 16 ∧ (0xFFFF#16).toNat < 2 ^ (16#5).toNat ∧ s.bwAcc.toNat < 2 ^ s.bwNbits.val ∧
     s.answers.take (bitsPushes (List.replicate 16 true) s) =
       List.replicate (bitsPushes (List.replicate 16 true) s) .ok) ∧
    (let s := { State.reset with bwAcc := 0x7F#8, bwNbits := 7, answers := [.ok, .ioerr] }
     1 < bitsPushes (List.replicate 16 true) s ∧ s.answers = List.replicate 1 .ok ++ .ioerr :: []) ∧
    (let s := { State.reset with bwAcc := 0x7F#8, bwNbits := 7, answers := [.ok] }
     1 < bitsPushes (List.replicate 16 true) s ∧ s.answers = List.replicate 1 .ok) ∧
    (0#5).toNat ≤ 16 ∧ (0#16).toNat < 2 ^ (0#5).toNat ∧ sinkAccepts 0 State.reset := by
  refine ⟨by decide, by decide, by decide, by decide, by decide, by decide, by decide, rfl⟩

theorem witness_BwcloseFlushesThePaddedByte :
    State.reset.bwNbits = 0 ∧ { State.reset with bwAcc := 1#8, bwNbits := 1 }.bwNbits ≠ 0 ∧
    { State.reset with bwAcc := 0x7F#8, bwNbits := 7 }.bwNbits ≠ 0 ∧
    State.reset.answers = [] ∧ { State.reset with answers := [.ok] }.answers = .ok :: [] ∧
    { State.reset with answers := [.ioerr] }.answers = .ioerr :: [] := by decide

theorem witness_EncbWritesTheCode :
    coding.codesValid = true ∧ coding.codeAt 0x42#8 = [] ∧ coding.codeAt 0x41#8 ≠ [] ∧
    coding.bwAcc.toNat < 2 ^ coding.bwNbits.val ∧
    coding.answers.take (bitsPushes (coding.codeAt 0x41#8) coding) =
      List.replicate (bitsPushes (coding.codeAt 0x41#8) coding) .ok ∧
    (let s := { coding with bwAcc := 0x7F#8, bwNbits := 7, answers := [.ioerr] }
     0 < bitsPushes (s.codeAt 0x41#8) s ∧ s.answers = List.replicate 0 .ok ++ .ioerr :: []) ∧
    (let s := { coding with bwAcc := 0x7F#8, bwNbits := 7 }
     0 < bitsPushes (s.codeAt 0x41#8) s ∧ s.answers = List.replicate 0 .ok) := by decide

/-- Seven bits held, two more to come: one push, answered OK. -/
theorem witness_EncWritesTheCodesOfTheStream :
    let s := { coding with bwNbits := 7, bwAcc := 0x7F#8, answers := [.ok] }
    s.codesValid = true ∧ (∀ b ∈ [0x41#8, 0x41#8], s.codeAt b ≠ []) ∧
    s.bwAcc.toNat < 2 ^ s.bwNbits.val ∧
    s.answers.take (bitsPushes ([0x41#8, 0x41#8].flatMap s.codeAt) s) =
      List.replicate (bitsPushes ([0x41#8, 0x41#8].flatMap s.codeAt) s) .ok ∧
    [InItem.byte 0x41#8, .byte 0x41#8, .eos] = asItems [0x41#8, 0x41#8] ++ .eos :: [] ∧
    [InItem.byte 0x41#8, .byte 0x41#8, .ioerr] = asItems [0x41#8, 0x41#8] ++ .ioerr :: [] ∧
    [InItem.byte 0x41#8, .byte 0x41#8, .byte 0x42#8] =
      asItems [0x41#8, 0x41#8] ++ .byte 0x42#8 :: [] ∧
    s.codeAt 0x42#8 = [] ∧ [InItem.byte 0x41#8, .byte 0x41#8] = asItems [0x41#8, 0x41#8] := by decide +kernel

/-- ENC's pushes: the first byte's code fills the writer, so push 0 is its own; with six bits held push 0 is the
second byte's. -/
theorem witness_EncWritesTheCodesOfTheStream_push :
    (let s := { coding with bwNbits := 7, bwAcc := 0x7F#8 }
     bitsPushes (([] : List Byte).flatMap s.codeAt) s ≤ 0 ∧
     0 < bitsPushes (([] ++ [0x41#8]).flatMap s.codeAt) s ∧
     [InItem.byte 0x41#8, .eos] = asItems [] ++ .byte 0x41#8 :: [.eos]) ∧
    (let s := { coding with bwNbits := 6, bwAcc := 0x3F#8 }
     (∀ b ∈ [0x41#8], s.codeAt b ≠ []) ∧ s.bwAcc.toNat < 2 ^ s.bwNbits.val ∧
     bitsPushes ([0x41#8].flatMap s.codeAt) s ≤ 0 ∧
     0 < bitsPushes (([0x41#8] ++ [0x41#8]).flatMap s.codeAt) s ∧ s.codeAt 0x41#8 ≠ [] ∧
     [InItem.byte 0x41#8, .byte 0x41#8, .eos] = asItems [0x41#8] ++ .byte 0x41#8 :: [.eos] ∧
     [Answer.ioerr, .ok] = List.replicate 0 .ok ++ .ioerr :: [.ok] ∧
     s.answers = List.replicate 0 .ok) := by decide +kernel

theorem witness_SinkFailureEmptiesTheWriter :
    (Instr.bwclose).opc ∈ [0x20#8, 0x21#8, 0x22#8, 0x23#8, 0x24#8] ∧
    (after .bwclose { about .bwclose with bwAcc := 1#8, bwNbits := 1, answers := [.ioerr] }).map
      (fun t => (t.err, t.errcode, t.errinfo)) = some (true, .underlyingIo, 1#32) := by decide

theorem witness_BrbitReadsOneBit :
    let s := reading treeAAAA 1#40
    State.reset.brOpen = false ∧ (s [] []).brOpen = true ∧ (s [] []).budget ≠ 0#40 ∧ (reading treeAAAA 0#40 [] []).budget = 0#40 ∧
    (7 : Fin 9).val + 1 = { s [] [] with brNleft := 8 }.brNleft.val ∧
    (0 : Fin 9).val + 1 = { s [] [] with brNleft := 1 }.brNleft.val ∧
    (s [] []).brNleft = 0 ∧ (s [] []).input = [] ∧ (s [.byte 0x80#8] []).input = .byte 0x80#8 :: [] ∧
    (s [.eos] []).input = .eos :: [] ∧ (s [.ioerr] []).input = .ioerr :: [] := by decide

theorem witness_BrsymCountsOneSymbol :
    State.reset.brOpen = false ∧ (reading treeAAAA 0#40 [] []).brOpen = true ∧
    (reading treeAAAA 0#40 [] []).budget = 0#40 ∧
    (0#40).toNat + 1 = (reading treeAAAA 1#40 [] []).budget.toNat ∧
    (0xFFFFFFFFFE#40).toNat + 1 = (reading treeAAAA 0xFFFFFFFFFF#40 [] []).budget.toNat := by decide

/-- The only symbol read off one bit that is still in the buffer, and off a fresh byte; its push answered OK,
IOERR, not at all. -/
theorem witness_DecsymDecodesOneSymbol :
    (reading treeAAAA 0#40 [] []).budget = 0#40 ∧
    ((reading Tree.empty 1#40 [] []).budget ≠ 0#40 ∧ (reading Tree.empty 1#40 [] []).tree.root = none) ∧
    (let s := { reading treeAAAA 1#40 [.eos] [.ok] with brNleft := 1 }
     s.treeValid = true ∧ s.brOpen = true ∧ s.tree.root = some 1 ∧ s.budget ≠ 0#40 ∧
     (0#40).toNat + 1 = s.budget.toNat ∧
     s.input = asItems [] ++ [.eos] ∧ s.answers = .ok :: [] ∧
     s.tree.readSymbol 1 (readerBits s ++ ([] : List Byte).flatMap byteBits) = some (0x41#8, []) ∧
     (0 : Fin 9).val = ([] : List Bool).length) ∧
    (let s := reading treeAAAA 1#40 [.byte 0#8, .eos] [.ioerr]
     s.input = asItems [0#8] ++ [.eos] ∧ s.answers = .ioerr :: [] ∧
     (reading treeAAAA 1#40 [.byte 0#8, .eos] []).answers = [] ∧
     s.tree.readSymbol 1 (readerBits s ++ [0#8].flatMap byteBits) =
       some (0x41#8, List.replicate 7 false) ∧
     (List.replicate 7 false).length < 8 ∧ (7 : Fin 9).val = (List.replicate 7 false).length) := by
  decide

/-- A missing child on a held bit and on a fresh byte; a walk whose bits end at the root. -/
theorem witness_DecsymDecodesOneSymbol_errors :
    (let s := { reading treeAAAA 1#40 [.eos] [] with brBuf := 1#8, brNleft := 1 }
     s.input = asItems [] ++ [.eos] ∧
     readerBits s ++ ([] : List Byte).flatMap byteBits = [] ++ true :: [] ∧
     s.tree.descend 1 [] = some 1 ∧ (s.tree.nodeAt 1).child true = none) ∧
    (let s := reading treeAAAA 1#40 [.byte 0x80#8] []
     readerBits s ++ [0x80#8].flatMap byteBits = [] ++ true :: List.replicate 7 false ∧
     (7 : Fin 9).val = (List.replicate 7 false).length) ∧
    (let s := reading treeAB 1#40 [.eos] []
     s.tree.root = some 2 ∧ s.tree.descend 2 (readerBits s ++ ([] : List Byte).flatMap byteBits) = some 2 ∧
     s.input = asItems [] ++ .eos :: [] ∧ [InItem.ioerr] = asItems [] ++ .ioerr :: [] ∧
     (reading treeAB 1#40 [] []).input = asItems []) := by decide +kernel

/-- "AAAA" in one byte, END left queued; and TOTAL = 0. -/
theorem witness_DecDecodesTheBody :
    (let s := reading treeAAAA 0#40 [.byte 0#8, .eos] (List.replicate 4 .ok)
     s.treeValid = true ∧ s.input = asItems [0#8] ++ [.eos] ∧
     s.answers.take s.tree.total.toNat = List.replicate s.tree.total.toNat .ok ∧
     s.tree.readSymbols s.tree.total.toNat ([0#8].flatMap byteBits) =
       some (List.replicate 4 0x41#8, List.replicate 4 false) ∧
     (List.replicate 4 false).length < 8 ∧ (4 : Fin 9).val = (List.replicate 4 false).length) ∧
    (let s := reading Tree.empty 5#40 [] []
     s.treeValid = true ∧ s.input = asItems [] ++ [] ∧
     s.answers.take s.tree.total.toNat = List.replicate s.tree.total.toNat .ok ∧
     s.tree.readSymbols s.tree.total.toNat (([] : List Byte).flatMap byteBits) = some ([], []) ∧
     (0 : Fin 9).val = ([] : List Bool).length) := by decide

/-- The first and the last of four pushes answered IOERR or not at all; a bit 1 after three symbols; a tree
without a root and a TOTAL. -/
theorem witness_DecDecodesTheBody_errors :
    (let s := reading treeAAAA 0#40 [.byte 0#8, .eos] [.ioerr, .ok]
     0 < s.tree.total.toNat ∧ s.answers = List.replicate 0 .ok ++ .ioerr :: [.ok] ∧
     (reading treeAAAA 0#40 [.byte 0#8, .eos] []).answers = List.replicate 0 .ok ∧
     s.tree.readSymbols (0 + 1) ([0#8].flatMap byteBits) = some ([0x41#8], List.replicate 7 false) ∧
     3 < s.tree.total.toNat ∧ [.ok, .ok, .ok, .ioerr] = List.replicate 3 Answer.ok ++ .ioerr :: [] ∧
     s.tree.readSymbols (3 + 1) ([0#8].flatMap byteBits) =
       some (List.replicate 4 0x41#8, List.replicate 4 false)) ∧
    (let s := reading treeAAAA 0#40 [.byte 0x10#8, .eos] (List.replicate 3 .ok)
     s.answers.take 3 = List.replicate 3 .ok ∧ s.tree.root = some 1 ∧
     s.tree.readSymbols 3 ([0x10#8].flatMap byteBits) =
       some (List.replicate 3 0x41#8, [] ++ true :: List.replicate 4 false) ∧
     s.tree.descend 1 [] = some 1 ∧ (s.tree.nodeAt 1).child true = none) ∧
    (let s := reading { Tree.empty with total := 1#40 } 0#40 [] []
     s.treeValid = true ∧ s.tree.total ≠ 0#40 ∧ s.tree.root = none) := by decide +kernel

/-- The "AB" tree and the one-symbol tree asked for symbols, with nothing left of the body. -/
theorem witness_TruncatedBodyIsReported :
    (let s := reading treeAB 0#40 [.eos] []
     s.treeValid = true ∧ s.input = asItems [] ++ .eos :: [] ∧ 0 < s.tree.total.toNat ∧
     s.answers.take 0 = List.replicate 0 .ok ∧ s.tree.root = some 2 ∧
     s.tree.readSymbols 0 (([] : List Byte).flatMap byteBits) = some ([], []) ∧
     s.tree.descend 2 [] = some 2 ∧ (reading treeAB 0#40 [] []).input = asItems [] ∧
     (reading treeAB 0#40 [.ioerr] []).input = asItems [] ++ .ioerr :: []) ∧
    (let s := reading { treeAAAA with total := 9#40 } 0#40 [.byte 0#8, .eos] (List.replicate 8 .ok)
     s.input = asItems [0#8] ++ .eos :: [] ∧ 8 < s.tree.total.toNat ∧
     s.answers.take 8 = List.replicate 8 .ok ∧ s.tree.root = some 1 ∧
     s.tree.readSymbols 8 ([0#8].flatMap byteBits) = some (List.replicate 8 0x41#8, []) ∧
     s.tree.descend 1 [] = some 1) := by decide

theorem witness_OneChildNodeRejectsBitOne :
    let s := ready .decsym histAAAA true 1#40 [.byte 0x80#8] []
    occurring s.hist = [0x41#8] ∧ s.tree = Tree.ofHist s.hist ∧ s.treeValid = true ∧
    s.brOpen = true ∧ s.budget ≠ 0#40 ∧ s.brNleft = 0 ∧ s.input = .byte 0x80#8 :: [] ∧
    (0x80#8).getLsbD 7 = true ∧
    (8 : Fin 9).val = (7 : Fin 9).val + 1 ∧ (1 : Fin 9).val = (0 : Fin 9).val + 1 ∧
    (1#8).getLsbD 0 = true := by
  have r := ready_inv .decsym histAAAA true 1#40 [.byte 0x80#8] []
  exact ⟨occurring_histAAAA, r.tree_hist rfl, rfl, rfl, by simp [ready, raw], rfl, rfl, by decide, rfl, rfl,
    by decide⟩

/-- DEC on three bits 0 and a bit 1: three of the four symbols are out. -/
theorem witness_OneChildNodeRejectsBitOne_dec :
    let s := ready .dec histAAAA false 0#40 [.byte 0x10#8] (List.replicate 3 .ok)
    s.input = asItems [0x10#8] ++ [] ∧ 3 < (countOf s.hist 0x41#8).toNat ∧
    s.answers.take 3 = List.replicate 3 .ok ∧
    [0x10#8].flatMap byteBits = List.replicate 3 false ++ true :: List.replicate 4 false ∧
    (4 : Fin 9).val = (List.replicate 4 false).length :=
  ⟨rfl, by simp [ready, raw, countOf, histAAAA], rfl, by decide, rfl⟩

theorem witness_IskipDiscardsToEnd :
    [InItem.byte 1#8, .eos, .eos] = asItems [1#8] ++ .eos :: [.eos] ∧
    [InItem.ioerr] = asItems [] ++ .ioerr :: [] ∧ ([] : List InItem) = asItems [] := by decide

theorem witness_FrameOfHistogramCommands :
    ∀ i ∈ [Instr.hclr, .hcnt, .frqout, .frqin], ∃ t, exec i (about i) = .next t := by
  intro i _
  exact exec_next i _

theorem witness_FrameOfTreeCommands :
    ∀ i ∈ [Instr.build, .gencodes], ∃ t, exec i (about i) = .next t := by
  intro i _
  exact exec_next i _

theorem witness_FrameOfWriterCommands :
    ∀ i ∈ [Instr.bwbit 0#8, .bwcode 0#5 0#16, .bwclose, .encb 0#8, .enc],
      i.opc ∈ [0x20#8, 0x21#8, 0x22#8, 0x23#8, 0x24#8] ∧ (after i coding).isSome = true := by decide

theorem witness_FrameOfReaderCommands :
    ∀ i ∈ [Instr.nop, .bropen, .brbit, .brsym, .decsym, .dec, .iskip],
      (after i (reading treeAAAA 1#40 [.byte 0#8, .eos] (List.replicate 4 .ok))).isSome = true := by
  decide

theorem witness_StepKeepsTheInvariant :
    Inv walking ∧ step walking = .next (hostStep walking) := ⟨walking_inv, rfl⟩

/-- HCLR with a valid tree. -/
theorem witness_HistogramChangeInvalidates :
    let s := ready .hclr histAAAA false 0#40 [] []
    Inv s ∧ s.treeValid = true ∧ s.histAt 0x41#8 = 4#32 ∧
    (stepped s).map (fun t => (t.histAt 0x41#8, t.treeValid)) = some (0#32, false) :=
  ⟨ready_inv .hclr histAAAA false 0#40 [] [], rfl, by decide +kernel, by decide +kernel⟩

/-- BUILD with valid codes. -/
theorem witness_HistogramChangeInvalidates_codes :
    let s := ready .build histZero false 0#40 [] []
    Inv s ∧ s.codesValid = true ∧ (stepped s).map (·.codesValid) = some false :=
  ⟨ready_inv .build histZero false 0#40 [] [], rfl, rfl⟩

theorem witness_NoCommandWritesCtrl : ∃ t, coreStep (about .nop) = .next t := ⟨_, rfl⟩

/-- ISKIP with one byte presented: it discards the byte and waits. -/
theorem witness_WaitingIsTransparent :
    let s := raw .iskip histZero false 0#40 [.byte 1#8] []
    s.busy = true ∧ s.reply = none ∧ s.pending = some (encode .iskip) ∧
    (after .iskip s).map (fun t => (t.busy, t.progress)) = some (true, .iskip) := by decide

/-- A wait in a Pull, one in a Push, and for each command with a port a state in which its first Pull or Push
finds it unserved. -/
theorem witness_UnservedPortHoldsTheCommand :
    (let s := raw .iskip histZero false 0#40 [.byte 1#8] []
     s.rst = false ∧ s.busy = true ∧ s.done = false ∧ s.reply = none ∧ s.pending = some (encode .iskip) ∧
     (after .iskip s).map (·.progress) = some .iskip) ∧
    (after .bwclose { about .bwclose with bwAcc := 1#8, bwNbits := 1 }).map (·.progress) =
      some (.close 0x80#8) ∧
    meetsUnservedPort .hcnt State.reset ∧ meetsUnservedPort .frqout State.reset ∧
    meetsUnservedPort .frqin State.reset ∧ meetsUnservedPort .iskip State.reset ∧
    meetsUnservedPort (.bwbit 1#8) { State.reset with bwNbits := 7 } ∧
    meetsUnservedPort (.bwcode 8#5 0xFF#16) State.reset ∧
    meetsUnservedPort .bwclose { State.reset with bwNbits := 1 } ∧
    meetsUnservedPort (.encb 0x41#8) { coding with bwNbits := 7 } ∧ meetsUnservedPort .enc coding ∧
    meetsUnservedPort .brbit (reading treeAAAA 1#40 [] []) ∧
    meetsUnservedPort .decsym (reading treeAAAA 1#40 [] []) ∧
    meetsUnservedPort .decsym { reading treeAAAA 1#40 [.eos] [] with brNleft := 1 } ∧
    meetsUnservedPort .dec (reading treeAAAA 1#40 [] []) := by
  refine ⟨by decide, by decide, rfl, rfl, rfl, rfl, ?_⟩
  refine ⟨⟨by decide, rfl, rfl⟩, ⟨by decide, by decide, by decide, rfl⟩, ⟨by decide, rfl⟩,
    ⟨rfl, by decide, by decide, rfl⟩, ⟨rfl, rfl⟩, ⟨rfl, by decide, rfl, rfl⟩, ?_, ?_,
    ⟨rfl, by decide, by decide, rfl⟩⟩
  · exact ⟨rfl, rfl, by decide, 1, rfl, .inr ⟨rfl, by decide⟩⟩
  · exact ⟨rfl, rfl, by decide, 1, rfl, .inl ⟨rfl, by decide⟩⟩

theorem witness_CmdWriteIsAcceptedOrRefused :
    State.reset.rst = false ∧ State.reset.busy = false ∧ State.reset.err = false ∧ (about .nop).busy = true ∧
    hostFirst State.reset = false ∧ decode 0x35000000#32 = .ok .iskip ∧
    { State.reset with err := true, errcode := .noTree }.err = true := by decide

theorem witness_CtrlWriteAndReset : (1#32).getLsbD 1 = false ∧ (3#32).getLsbD 1 = true := by decide

theorem witness_HistAndBudgetWrites :
    (about .nop).busy = true ∧ State.reset.busy = false := by decide

theorem witness_ReadsHaveNoSideEffect :
    State.reset.busy = false ∧ (about .nop).busy = true ∧ Reg.result ≠ .id ∧ Reg.result ≠ .ctrl ∧
    Reg.result ≠ .status ∧ State.reset.tree.root = none ∧ treeAB.root = some 2 := by decide

theorem witness_RegisterMap :
    State.reset.rst = false ∧
    (0x40 ≤ (0x40#16).toNat ∧ (0x40#16).toNat < 0x400) ∧
    (0x40 ≤ (0x3FC#16).toNat ∧ (0x3FC#16).toNat < 0x400) ∧
    (0x800 ≤ (0x800#16).toNat ∧ (0x1FFC#16).toNat < 0x2000) ∧
    0x8000 ≤ (0x8000#16).toNat ∧ 0x8000 ≤ (0xFFFC#16).toNat ∧
    (∀ i, Reg.errcode ≠ .hist i) ∧ Reg.errcode ∉ [Reg.ctrl, .status, .cmd, .budgetLo, .budgetHi] := by
  decide

/-- A leaf at slot 0, the root at slot 1, and slot 2 = NNODES. -/
theorem witness_NodeWindowShowsTheSlot :
    let s := reading treeAAAA 0#40 [] []
    s.treeValid = true ∧ (0#9).toNat < s.tree.nnodes.toNat ∧ (1#9).toNat < s.tree.nnodes.toNat ∧
    s.tree.nodeAt ⟨0, by decide⟩ = .leaf 0x41#8 4#40 ∧
    s.tree.nodeAt ⟨1, by decide⟩ = .internal 4#40 0 none ∧
    s.tree.nnodes.toNat ≤ (2#9).toNat ∧ (510#9).toNat < 511 ∧ State.reset.treeValid = false := by
  decide

theorem witness_CodeWindowShowsTheCode :
    coding.codesValid = true ∧ (coding.codeAt 0x41#8).length ≤ 255 ∧
    (List.replicate 255 true).length ≤ 255 ∧ State.reset.codesValid = false :=
  ⟨rfl, by decide, Nat.le_of_eq List.length_replicate, rfl⟩

theorem witness_IrqIsALevelOfDoneAndEnable :
    (2#32).getLsbD 1 = true ∧ (0#32).getLsbD 0 = false ∧ (2#32).getLsbD 0 = false ∧
    (3#32).getLsbD 1 = true ∧ State.reset.busy = false ∧ State.reset.err = false := by decide

/-- BWCLOSE with its byte on offer, and the state under an asserted `rst`. -/
theorem witness_ResetHoldsAndAbandons :
    (let s := { about .bwclose with progress := .close 0x40#8 }
     offeredByte s = some 0x40#8 ∧ s.reply = none ∧ s.rst = false ∧ (3#32).getLsbD 1 = true) ∧
    Inv { State.reset with rst := true } := by
  refine ⟨by decide, ?_⟩
  constructor <;> simp [State.reset, writerClean, Result.zero, Progress.inWalk, Progress.inCount,
    Progress.inWriterPush, Progress.inPush, hardReset]

end Sys2Proof.Tests
end

section
/-! PROOFS. The tree builder: what stands in the priority structure, how much it weighs, and which node becomes the
root (R132 to R135, R40). -/

namespace Sys2Proof.Machine

/-- The weights in the priority structure, added up. -/
def Builder.queueWeight (b : Builder) : Weight := (b.queue.map fun j => (b.node[j.val]'j.isLt).weight).sum

/-- Only nodes already made stand in the priority structure. -/
def Builder.queueMade (b : Builder) : Prop := ∀ j ∈ b.queue, j.val < b.k

theorem insertByPriority_perm (node : Vector Node 511) (j : NodeIx) (q : List NodeIx) :
    (insertByPriority node j q).Perm (j :: q) := by
  induction q with
  | nil => exact .refl _
  | cons x q ih =>
    rw [insertByPriority]
    split
    · exact .refl _
    · exact (ih.cons x).trans (.swap j x q)

/-! ### Making one node -/

@[simp] theorem Builder.insert_k (b : Builder) (nd : Node) : (b.insert nd).k = b.k + 1 := rfl

theorem Builder.insert_queue_perm (b : Builder) (nd : Node) :
    (b.insert nd).queue.Perm (Fin.ofNat 511 b.k :: b.queue) := insertByPriority_perm _ _ _

@[simp] theorem Builder.insert_queue_length (b : Builder) (nd : Node) :
    (b.insert nd).queue.length = b.queue.length + 1 := by
  simpa using (b.insert_queue_perm nd).length_eq

theorem Builder.insert_node_self (b : Builder) (nd : Node) (hk : b.k < 511) :
    (b.insert nd).node[b.k] = nd := by
  simp [Builder.insert]

theorem Builder.insert_node_of_lt (b : Builder) (nd : Node) (j : NodeIx) (hj : j.val < b.k) :
    (b.insert nd).node[j.val] = b.node[j.val] := by
  simp [Builder.insert, Nat.ne_of_gt hj]

theorem Builder.insert_queueMade {b : Builder} (nd : Node) (hk : b.k < 511) (hq : b.queueMade) :
    (b.insert nd).queueMade := by
  intro j hj
  rcases List.mem_cons.1 ((b.insert_queue_perm nd).mem_iff.1 hj) with rfl | hj
  · simp [Nat.mod_eq_of_lt hk]
  · exact Nat.lt_succ_of_lt (hq j hj)

theorem Builder.insert_queueWeight {b : Builder} (nd : Node) (hk : b.k < 511) (hq : b.queueMade) :
    (b.insert nd).queueWeight = nd.weight + b.queueWeight := by
  have hself : ((b.insert nd).node[(Fin.ofNat 511 b.k).val]'(Fin.isLt _)).weight = nd.weight := by
    simp [Nat.mod_eq_of_lt hk, b.insert_node_self nd hk]
  have hold : (b.queue.map fun j => ((b.insert nd).node[j.val]'j.isLt).weight) =
      b.queue.map fun j => (b.node[j.val]'j.isLt).weight :=
    List.map_congr_left fun j hj => by rw [b.insert_node_of_lt nd j (hq j hj)]
  rw [Builder.queueWeight, ((b.insert_queue_perm nd).map _).sum_eq, List.map_cons, List.sum_cons, hself,
    hold, Builder.queueWeight]

/-! ### The leaves (R132) -/

/-- The builder before any node is made. -/
def Builder.blank : Builder := { node := Tree.empty.node, queue := [], k := 0 }

/-- While leaves are made every node stands in the priority structure, which weighs what was counted. -/
theorem Builder.foldl_addLeaf (hist : Vector Word 256) (syms : List Byte) (b : Builder)
    (hk : b.k + syms.length < 511) (hq : b.queueMade) :
    let c := syms.foldl (Builder.addLeaf hist) b
    c.queueMade ∧
    c.queue.length =
      b.queue.length + (syms.filter fun sym => hist[sym.toNat]'sym.isLt != 0#32).length ∧
    c.k + b.queue.length = b.k + c.queue.length ∧
    c.queueWeight =
      syms.foldl (fun t sym => t + (hist[sym.toNat]'sym.isLt).setWidth 40) b.queueWeight := by
  induction syms generalizing b with
  | nil => exact ⟨hq, rfl, rfl, rfl⟩
  | cons sym syms ih =>
    simp only [List.length_cons] at hk
    simp only [List.foldl_cons]
    by_cases h0 : hist[sym.toNat]'sym.isLt = 0#32
    · simpa [Builder.addLeaf, h0] using ih b (by omega) hq
    · have hadd : Builder.addLeaf hist b sym =
          b.insert (.leaf sym ((hist[sym.toNat]'sym.isLt).setWidth 40)) := by
        simp [Builder.addLeaf, h0]
      obtain ⟨hm, hl, hkl, hw⟩ := ih _ (by rw [hadd, Builder.insert_k]; omega)
        (hadd ▸ Builder.insert_queueMade _ (by omega) hq)
      rw [hadd] at hm hl hkl hw ⊢
      rw [Builder.insert_queue_length] at hl hkl
      rw [Builder.insert_k] at hkl
      refine ⟨hm, by simp [hl, h0]; omega, by omega, ?_⟩
      rw [hw, Builder.insert_queueWeight _ (by omega) hq, Node.weight, BitVec.add_comm]

/-- Every leaf stands in the priority structure, and the leaves weigh TOTAL (R132, R140). -/
theorem Builder.leaves_made (hist : Vector Word 256) :
    let b := Builder.leaves hist
    b.queueMade ∧ b.queue.length = (occurring hist).length ∧ b.k = b.queue.length ∧
      b.queueWeight = histTotal hist := by
  obtain ⟨hq, hl, hk, hw⟩ := Builder.foldl_addLeaf hist symbols Builder.blank
    (by simp [Builder.blank, symbols]) (by simp [Builder.queueMade, Builder.blank])
  exact ⟨hq, by simpa [Builder.leaves, Builder.blank, occurring] using hl,
    by simpa [Builder.leaves, Builder.blank] using hk, hw⟩

theorem occurring_length_le (hist : Vector Word 256) : (occurring hist).length ≤ 256 :=
  (List.length_filter_le _ symbols).trans_eq (by simp [symbols])

/-! ### The merges (R134) -/

section Merge
variable {b : Builder} {x y : NodeIx} {rest : List NodeIx}

theorem Builder.merge_k : (b.merge x y rest).k = b.k + 1 := rfl

theorem Builder.merge_queue_length : (b.merge x y rest).queue.length = rest.length + 1 := by
  simp [Builder.merge]

theorem Builder.merge_queue_nil : (b.merge x y []).queue = [Fin.ofNat 511 b.k] := rfl

theorem Builder.merge_node_self (hk : b.k < 511) :
    (b.merge x y rest).node[b.k] =
      .internal ((b.node[x.val]'x.isLt).weight + (b.node[y.val]'y.isLt).weight) x (some y) :=
  Builder.insert_node_self _ _ hk

theorem Builder.merge_queueMade (hk : b.k < 511) (hq : b.queueMade) (he : b.queue = x :: y :: rest) :
    (b.merge x y rest).queueMade :=
  Builder.insert_queueMade _ hk fun j hj => hq j (by simp [he, hj])

/-- A merge takes no weight off the priority structure. -/
theorem Builder.merge_queueWeight (hk : b.k < 511) (hq : b.queueMade) (he : b.queue = x :: y :: rest) :
    (b.merge x y rest).queueWeight = b.queueWeight := by
  have hrest : Builder.queueMade { b with queue := rest } := fun j hj =>
    hq j (by rw [he]; exact .tail _ (.tail _ hj))
  rw [Builder.merge, Builder.insert_queueWeight (b := { b with queue := rest }) _ hk hrest]
  simp [Builder.queueWeight, he, Node.weight, BitVec.add_assoc]

end Merge

/-- The merges of two or more nodes end in one internal node, which weighs what they weighed. -/
theorem Builder.mergeAll_root (n : Nat) (b : Builder) (h2 : 2 ≤ b.queue.length) (hn : b.queue.length ≤ n)
    (hk : b.k + b.queue.length ≤ 512) (hq : b.queueMade) :
    ∃ r l c, (b.mergeAll n).queue = [r] ∧ (b.mergeAll n).node[r.val] = .internal b.queueWeight l c := by
  induction n generalizing b with
  | zero => omega
  | succ n ih =>
    match he : b.queue with
    | [] | [_] => simp [he] at h2
    | x :: y :: rest =>
      simp only [he, List.length_cons] at hn hk
      have hk' : b.k < 511 := by omega
      have hstep : b.mergeAll (n + 1) = (b.merge x y rest).mergeAll n := by simp [Builder.mergeAll, he]
      rw [hstep]
      cases rest with
      | nil =>
        have hstop : (b.merge x y []).mergeAll n = b.merge x y [] := by
          cases n <;> simp [Builder.mergeAll, Builder.merge_queue_nil]
        refine ⟨Fin.ofNat 511 b.k, x, some y, by rw [hstop, Builder.merge_queue_nil], ?_⟩
        simp [hstop, Nat.mod_eq_of_lt hk', Builder.merge_node_self hk', Builder.queueWeight, he]
      | cons z rest =>
        have hl := Builder.merge_queue_length (b := b) (x := x) (y := y) (rest := z :: rest)
        simp only [List.length_cons] at hl hn hk
        rw [← Builder.merge_queueWeight hk' hq he]
        exact ih _ (by omega) (by omega) (by rw [Builder.merge_k]; omega) (Builder.merge_queueMade hk' hq he)

/-! ### The root -/

/-- The one-symbol tree stands over its leaf and weighs as much (R131). -/
theorem Builder.addOneChild_root {b : Builder} {j : NodeIx} (he : b.queue = [j]) (hk : b.k = 1)
    (hq : b.queueMade) : b.addOneChild.node[1] = .internal b.queueWeight 0 none := by
  have hj : j = 0 := Fin.ext (by have := hq j (by simp [he]); simp; omega)
  have := Builder.insert_node_self b (.internal (b.node[0]).weight 0 none) (by omega)
  simp only [hk] at this
  simp [Builder.addOneChild, this, Builder.queueWeight, he, hj]

/-- With a symbol counted there is a root, an internal node that weighs TOTAL (R40, R131, R135). -/
theorem Tree.ofHist_root_of_occurring {hist : Vector Word 256} (h : occurring hist ≠ []) :
    ∃ r l c, (Tree.ofHist hist).root = some r ∧
      (Tree.ofHist hist).nodeAt r = .internal (Tree.ofHist hist).total l c := by
  obtain ⟨hq, hlen, hk, hw⟩ := Builder.leaves_made hist
  have h256 := occurring_length_le hist
  simp only [Tree.ofHist, Tree.nodeAt, ← hw]
  match he : (Builder.leaves hist).queue with
  | [] => exact absurd (List.length_eq_zero_iff.1 (by simpa [he] using hlen.symm)) h
  | [j] =>
    rw [he] at hk
    exact ⟨1, 0, none, by simp [buildNodes, he], by
      simpa [buildNodes, he] using Builder.addOneChild_root he hk hq⟩
  | x :: y :: rest =>
    obtain ⟨r, l, c, hr, hn⟩ := Builder.mergeAll_root (Builder.leaves hist).queue.length
      (Builder.leaves hist) (by simp [he]) le_rfl (by omega) hq
    simp only [he, List.length_cons] at hr hn
    exact ⟨r, l, c, by simp [buildNodes, he, hr], by simpa [buildNodes, he] using hn⟩

/-- With no symbol counted there is no root (R131). -/
theorem Tree.ofHist_root_of_not_occurring {hist : Vector Word 256} (h : occurring hist = []) :
    (Tree.ofHist hist).root = none := by
  have he : (Builder.leaves hist).queue = [] :=
    List.length_eq_zero_iff.1 ((Builder.leaves_made hist).2.1.trans (by rw [h, List.length_nil]))
  simp [Tree.ofHist, buildNodes, he]

/-- A root is never a leaf (R131, R135). -/
theorem Tree.ofHist_root_internal {hist : Vector Word 256} {r : NodeIx}
    (h : (Tree.ofHist hist).root = some r) : ∃ w l c, (Tree.ofHist hist).nodeAt r = .internal w l c := by
  by_cases ho : occurring hist = []
  · rw [Tree.ofHist_root_of_not_occurring ho] at h
    cases h
  · obtain ⟨r', l, c, hr, hn⟩ := Tree.ofHist_root_of_occurring ho
    obtain rfl : r' = r := Option.some.inj (hr.symm.trans h)
    exact ⟨_, l, c, hn⟩

end Sys2Proof.Machine
end

section
/-! PROOFS. What holds while a command runs, said once per piece of pseudocode: the part of the invariant that does
not speak of the place the command is at (`Running`), and what a place it waits at asks for (`CanWait`). -/

namespace Sys2Proof.Machine

/-- What of the invariant holds at every point inside a command whose word is `w`. -/
structure Running (w : Word) (s : State) : Prop where
  rst : s.rst = false
  busy : s.busy = true
  pending : s.pending = some w
  done : s.done = false
  err : s.err = false
  errcode : s.errcode = .none
  errinfo : s.errinfo = 0#32
  reply : s.reply = none
  codes_tree : s.codesValid = true → s.treeValid = true
  tree_hist : s.treeValid = true → s.tree = Tree.ofHist s.hist
  codes_of : s.codesValid = true → s.code = codesOf s.tree
  writer_clean : writerClean s
  exh_value : s.result.exh = true → s.result.value = 0#8
  invalid_result : s.result.valid = false → s.result = Result.zero

/-- What a walk under way asks for (R172). -/
structure Walking (s : State) : Prop where
  budget : s.budget ≠ 0#40
  tree : s.treeValid = true
  opened : s.brOpen = true

/-- The cursor of a walk stands at an internal node (R172). -/
def standsInside (s : State) (cur : NodeIx) : Prop := ∃ w l r, s.tree.nodeAt cur = .internal w l r

/-- What command `i` asks for where it waits at `p`. -/
structure CanWait (i : Instr) (p : Progress) (s : State) : Prop where
  own : runsUnder p i = true
  walk : p.inWalk = true → Walking s
  node : ∀ c cur, p = .walk c cur → standsInside s cur
  count : p.inCount = true → s.treeValid = false
  writer : p.inWriterPush = true → s.bwAcc = 0#8 ∧ s.bwNbits = 0
  push : p.inPush = true → s.answers = []

/-- However the run ends, what holds inside a command holds; a return meets `Q`, an error has a code (R211), and a
wait is at a place of command `i`'s own. -/
def Run.Sound {α : Type} (w : Word) (i : Instr) (Q : α → State → Prop) : Run α → Prop
  | .ok a s => Running w s ∧ Q a s
  | .raised c _ s => c ≠ .none ∧ Running w s
  | .held p s => Running w s ∧ CanWait i p s

/-- The postcondition that asks for nothing. -/
def anyEnd {α : Type} (_ : α) (_ : State) : Prop := True

section
variable {α β : Type} {w : Word} {i : Instr} {s : State}

theorem Run.Sound.andThen {Q : α → State → Prop} {Q' : β → State → Prop} {r : Run α}
    {k : α → State → Run β} (hr : r.Sound w i Q) (hk : ∀ a t, Running w t → Q a t → (k a t).Sound w i Q') :
    (r.andThen k).Sound w i Q' := by
  cases r with
  | ok a t => exact hk a t hr.1 hr.2
  | raised c x t => exact hr
  | held p t => exact hr

theorem Running.ends (h : Running w s) : (Run.ok () s).Sound w i anyEnd := ⟨h, trivial⟩

theorem Run.Sound.mono {Q Q' : α → State → Prop} {r : Run α} (hr : r.Sound w i Q)
    (h : ∀ a t, Q a t → Q' a t) : r.Sound w i Q' := by
  cases r with
  | ok a t => exact ⟨hr.1, h a t hr.2⟩
  | raised c x t => exact hr
  | held p t => exact hr

/-! ### What keeps `Running` -/

theorem Running.setInput (h : Running w s) (q : List InItem) : Running w (s.setInput q) := { h with }

theorem Running.deliver (h : Running w s) (bs : List Byte) (a : List Answer) : Running w (s.deliver bs a) :=
  { h with }

theorem Running.setReader (h : Running w s) (b : Byte) (n : Fin 9) : Running w (s.setReader b n) := { h with }

theorem Running.openReader (h : Running w s) : Running w s.openReader := { h with }

theorem Running.setBudget (h : Running w s) (g : Weight) : Running w (s.setBudget g) := { h with }

theorem Running.setHist (h : Running w s) (ht : s.treeValid = false) (b : Byte) (v : Word) :
    Running w (s.setHist b v) := { h with tree_hist := fun hv => absurd hv (by simp [ht]) }

theorem Running.invalidate (h : Running w s) : Running w s.invalidate :=
  { h with
    codes_tree := fun hv => absurd hv (by simp)
    tree_hist := fun hv => absurd hv (by simp)
    codes_of := fun hv => absurd hv (by simp) }

theorem Running.setWriter (h : Running w s) {acc : Byte} {n : Fin 8} (hc : acc.toNat < 2 ^ n.val) :
    Running w (s.setWriter acc n) := { h with writer_clean := hc }

theorem Running.emptyWriter (h : Running w s) : Running w (s.setWriter 0#8 0) := h.setWriter (by decide)

theorem Running.setResult (h : Running w s) {r : Result} (he : r.exh = true → r.value = 0#8)
    (hv : r.valid = false → r = Result.zero) : Running w (s.setResult r) :=
  { h with exh_value := he, invalid_result := hv }

theorem Running.setResult_ofRead (h : Running w s) (v : Option Byte) :
    Running w (s.setResult (Result.ofRead v)) := by
  cases v <;> exact h.setResult (by simp [Result.ofRead, Result.exhausted, Result.ofValue])
    (by simp [Result.ofRead, Result.exhausted, Result.ofValue])

end

/-! ### Places to wait at -/

section Places
variable {i : Instr} {s : State}

/-- At a place of no group, the place being the command's own is all that is asked for. -/
theorem CanWait.of_plain {p : Progress} (hr : runsUnder p i = true) (hw : p.inWalk = false)
    (hc : p.inCount = false) (hwp : p.inWriterPush = false) (hp : p.inPush = false) : CanWait i p s where
  own := hr
  walk h := absurd h (by simp [hw])
  node _ _ h := absurd hw (by simp [h, Progress.inWalk])
  count h := absurd h (by simp [hc])
  writer h := absurd h (by simp [hwp])
  push h := absurd h (by simp [hp])

theorem CanWait.of_count {p : Progress} (hr : runsUnder p i = true) (hc : p.inCount = true)
    (ht : s.treeValid = false) : CanWait i p s := by
  cases p <;> cases hc <;>
    exact ⟨hr, by simp [Progress.inWalk], by simp, fun _ => ht, by simp [Progress.inWriterPush],
      by simp [Progress.inPush]⟩

theorem CanWait.of_frqout {k : Fin 1024} (ha : s.answers = []) : CanWait .frqout (.frqout k) s :=
  ⟨rfl, by simp [Progress.inWalk], by simp, by simp [Progress.inCount], by simp [Progress.inWriterPush],
    fun _ => ha⟩

theorem CanWait.of_writerPush {p : Progress} (hr : runsUnder p i = true) (hp : p.inWriterPush = true)
    (hw : s.bwAcc = 0#8 ∧ s.bwNbits = 0) (ha : s.answers = []) : CanWait i p s := by
  cases p <;> cases hp <;>
    exact ⟨hr, by simp [Progress.inWalk], by simp, by simp [Progress.inCount], fun _ => hw, fun _ => ha⟩

/-- The command a walk belongs to. -/
def DecodeCmd.instr : DecodeCmd → Instr
  | .decsym => .decsym
  | .dec => .dec

theorem runsUnder_walk (c : DecodeCmd) (cur : NodeIx) : runsUnder (.walk c cur) i = (i == c.instr) := by
  cases c <;> rfl

theorem runsUnder_emit (c : DecodeCmd) (sym : Byte) : runsUnder (.emit c sym) i = (i == c.instr) := by
  cases c <;> rfl

theorem CanWait.of_walk {c : DecodeCmd} {cur : NodeIx} (hw : Walking s) (hn : standsInside s cur) :
    CanWait c.instr (.walk c cur) s where
  own := by simp [runsUnder_walk]
  walk _ := hw
  node _ _ h := (Progress.walk.inj h).2 ▸ hn
  count h := absurd h (by simp [Progress.inCount])
  writer h := absurd h (by simp [Progress.inWriterPush])
  push h := absurd h (by simp [Progress.inPush])

theorem CanWait.of_emit {c : DecodeCmd} {sym : Byte} (hw : Walking s) (ha : s.answers = []) :
    CanWait c.instr (.emit c sym) s where
  own := by simp [runsUnder_emit]
  walk _ := hw
  node _ _ h := nomatch h
  count h := absurd h (by simp [Progress.inCount])
  writer h := absurd h (by simp [Progress.inWriterPush])
  push _ := ha

/-- Which command writes is the same at every byte and for every rest of its bits. -/
theorem runsUnder_write (stream : Bool) (b b' : Byte) (rest rest' : List Bool) :
    runsUnder (.write stream b rest) i = runsUnder (.write stream b' rest') i := by
  cases stream <;> rfl

end Places

/-! ### The ports -/

section Ports
variable {w : Word} {i : Instr} {s : State}

theorem pushByte_sound {p : Progress} {b : Byte} (h : Running w s) (hp : s.answers = [] → CanWait i p s) :
    (pushByte p b s).Sound w i fun _ t => ∃ rest, t = s.deliver [b] rest := by
  rcases pushByte_cases p b s with ⟨ha, e⟩ | ⟨rest, -, e⟩ | ⟨rest, -, e⟩ <;> rw [e]
  · exact ⟨h, hp ha⟩
  · exact ⟨h.deliver _ _, rest, rfl⟩
  · exact ⟨by simp, h.deliver _ _⟩

/-! ### The histogram commands -/

theorem countByte_sound {b : Byte} (h : Running w s) (ht : s.treeValid = false) :
    (countByte b s).Sound w i fun _ t => t.treeValid = false := by
  rcases countByte_cases b s with ⟨-, e⟩ | ⟨-, e⟩ <;> rw [e]
  · exact ⟨by simp, h⟩
  · exact ⟨h.setHist ht _ _, ht⟩

theorem hcntLoop_sound (q : List InItem) (h : Running w s) (ht : s.treeValid = false) :
    (hcntLoop q s).Sound w .hcnt anyEnd := by
  induction q generalizing s with
  | nil => exact ⟨h, .of_count rfl rfl ht⟩
  | cons it q ih =>
    cases it with
    | eos => exact ⟨h.setInput q, trivial⟩
    | ioerr => exact ⟨by simp, h.setInput q⟩
    | byte b => exact (countByte_sound (h.setInput q) ht).andThen fun _ _ h' ht' => ih h' ht'

theorem frqoutFrom_sound (n : Nat) (h : Running w s) : (frqoutFrom n s).Sound w .frqout anyEnd := by
  induction n generalizing s with
  | zero => exact ⟨h, trivial⟩
  | succ n ih => exact (pushByte_sound h .of_frqout).andThen fun _ _ h' _ => ih h'

theorem storeTableByte_running (h : Running w s) (ht : s.treeValid = false) (k : Fin 1024) (v : Word) :
    Running w (storeTableByte k v s) ∧ (storeTableByte k v s).treeValid = false := by
  unfold storeTableByte
  split
  · exact ⟨h.setHist ht _ _, ht⟩
  · exact ⟨h, ht⟩

theorem frqinFrom_sound (n : Nat) (v : Word) (h : Running w s) (ht : s.treeValid = false) :
    (frqinFrom n v s).Sound w .frqin anyEnd := by
  induction n generalizing v s with
  | zero => exact ⟨h, trivial⟩
  | succ n ih =>
    rw [frqinFrom]
    rcases pull_cases (.frqin ⟨1023 - n, by omega⟩ v) s with ⟨-, hp⟩ | ⟨it, q, -, hp⟩ <;> rw [hp]
    · exact ⟨h, .of_count rfl rfl ht⟩
    · cases it with
      | eos => exact ⟨by simp, h.setInput q⟩
      | ioerr => exact ⟨by simp, h.setInput q⟩
      | byte b =>
        obtain ⟨h', ht'⟩ := storeTableByte_running (h.setInput q) ht ⟨1023 - n, by omega⟩ (shiftInByte v b)
        exact ih _ h' ht'

/-! ### The BitWriter -/

/-- Shifting a bit in keeps the bits above the new count clear (R35, R150). -/
theorem shiftIn_clean {acc : Byte} {n : Nat} (b : Bool) (h : acc.toNat < 2 ^ n) :
    (shiftIn acc b).toNat < 2 ^ (n + 1) := by
  have hacc : (acc <<< 1).toNat < 2 ^ (n + 1) :=
    (BitVec.toNat_shiftLeft .. ▸ Nat.mod_le _ _).trans_lt (by rw [Nat.shiftLeft_eq]; omega)
  have hbit : ((BitVec.ofBool b).setWidth 8).toNat < 2 ^ (n + 1) := by
    cases b <;> simp
  exact BitVec.toNat_or .. ▸ Nat.or_lt_two_pow hacc hbit

theorem writeBit_sound {stream : Bool} {rest : List Bool} (b : Bool) (h : Running w s)
    (hr : runsUnder (.write stream 0#8 []) i = true) : (writeBit stream rest b s).Sound w i anyEnd := by
  rcases writeBit_cases stream rest b s with ⟨hn, e⟩ | ⟨-, e⟩ <;> rw [e]
  · exact ⟨h.setWriter (shiftIn_clean b h.writer_clean), trivial⟩
  · exact (pushByte_sound h.emptyWriter fun ha =>
      .of_writerPush (runsUnder_write .. ▸ hr) rfl ⟨rfl, rfl⟩ ha).mono fun _ _ _ => trivial

theorem writeBits_sound {stream : Bool} (bits : List Bool) (h : Running w s)
    (hr : runsUnder (.write stream 0#8 []) i = true) : (writeBits stream bits s).Sound w i anyEnd := by
  induction bits generalizing s with
  | nil => exact ⟨h, trivial⟩
  | cons b bits ih => exact (writeBit_sound b h hr).andThen fun _ _ h' _ => ih h'

theorem closeWriter_sound (h : Running w s) : (closeWriter s).Sound w .bwclose anyEnd := by
  unfold closeWriter
  split
  · exact ⟨h, trivial⟩
  · exact (pushByte_sound h.emptyWriter fun ha =>
      .of_writerPush rfl rfl ⟨rfl, rfl⟩ ha).mono fun _ _ _ => trivial

theorem encodeSymbol_sound {stream : Bool} (sym : Byte) (h : Running w s)
    (hr : runsUnder (.write stream 0#8 []) i = true) : (encodeSymbol stream sym s).Sound w i anyEnd := by
  unfold encodeSymbol
  split
  · exact ⟨by simp, h⟩
  · exact writeBits_sound _ h hr

theorem encLoop_sound (q : List InItem) (h : Running w s) : (encLoop q s).Sound w .enc anyEnd := by
  induction q generalizing s with
  | nil => exact ⟨h, .of_plain rfl rfl rfl rfl rfl⟩
  | cons it q ih =>
    cases it with
    | eos => exact ⟨h.setInput q, trivial⟩
    | ioerr => exact ⟨by simp, h.setInput q⟩
    | byte b => exact (encodeSymbol_sound b (h.setInput q) rfl).andThen fun _ _ h' _ => ih h'

/-! ### The BitReader and the decoder -/

/-- What reading a bit leaves: all but the reader and the input queue (R170). -/
def readerMoved (s t : State) : Prop := ∃ b n q, t = { s with brBuf := b, brNleft := n, input := q }

/-- Reading a bit keeps what runs; it waits only with a budget left (R170). -/
theorem readBit_sound {p : Progress} (h : Running w s) (hp : s.budget ≠ 0#40 → CanWait i p s) :
    (readBit p s).Sound w i fun _ t => readerMoved s t := by
  have taken : ∀ {u : State}, Running w u → readerMoved s u →
      (takeBit u).Sound w i fun _ t => readerMoved s t := by
    rintro u hu ⟨b, n, q, rfl⟩
    exact ⟨hu.setReader _ _, _, _, _, rfl⟩
  rcases readBit_cases p s with ⟨-, e⟩ | ⟨-, -, e⟩ | ⟨hb, -, -, e⟩ | ⟨q, -, -, -, e⟩ |
    ⟨q, -, -, -, e⟩ | ⟨v, q, -, -, -, e⟩ <;> rw [e]
  · exact ⟨h, _, _, _, rfl⟩
  · exact taken h ⟨_, _, _, rfl⟩
  · exact ⟨h, hp hb⟩
  · exact ⟨by simp, h.setInput q⟩
  · exact ⟨by simp, h.setInput q⟩
  · exact taken ((h.setInput q).setReader v 8) ⟨_, _, _, rfl⟩

theorem brbitBody_sound (h : Running w s) : (brbitBody s).Sound w .brbit anyEnd :=
  (readBit_sound h fun _ => .of_plain rfl rfl rfl rfl rfl).andThen fun _ _ h' _ =>
    ⟨h'.setResult_ofRead _, trivial⟩

theorem symbolConsumed_sound (v : Word) (h : Running w s) :
    (symbolConsumed v s).Sound w i fun _ t => ∃ g, t = s.setBudget g := by
  rcases symbolConsumed_cases v s with ⟨-, e⟩ | ⟨-, e⟩ <;> rw [e]
  · exact ⟨by simp, h⟩
  · exact ⟨h.setBudget _, _, rfl⟩

/-- A valid tree and an open reader: what decoding stands on from symbol to symbol (R172). -/
def decoding (s : State) : Prop := s.treeValid = true ∧ s.brOpen = true

theorem countSymbol_sound (c : DecodeCmd) (sym : Byte) (h : Running w s) (hd : decoding s) :
    (countSymbol c sym s).Sound w i fun _ t => decoding t :=
  (symbolConsumed_sound c.word h).andThen fun _ _ h' hg => by
    obtain ⟨g, rfl⟩ := hg
    exact ⟨h', hd⟩

theorem emitSymbol_sound (c : DecodeCmd) (sym : Byte) (h : Running w s) (hw : Walking s) :
    (emitSymbol c sym s).Sound w c.instr fun _ t => decoding t :=
  (pushByte_sound h (.of_emit hw)).andThen fun _ _ h' hr => by
    obtain ⟨rest, rfl⟩ := hr
    exact countSymbol_sound c sym h' ⟨hw.tree, hw.opened⟩

theorem walkTree_sound (c : DecodeCmd) (n : Nat) (cur : NodeIx) (h : Running w s) (hw : Walking s)
    (hn : standsInside s cur) : (walkTree c n cur s).Sound w c.instr fun _ t => decoding t := by
  induction n generalizing cur s with
  | zero => exact ⟨h, .of_walk hw hn⟩
  | succ n ih =>
    refine (readBit_sound h fun _ => .of_walk hw hn).andThen fun r t h' hm => ?_
    obtain ⟨b, m, q, rfl⟩ := hm
    have hw' : Walking { s with brBuf := b, brNleft := m, input := q } := { hw with }
    cases r with
    | none => exact ⟨h', hw'.tree, hw'.opened⟩
    | some bit =>
      dsimp only
      split
      · exact ⟨by simp, h'⟩
      · split
        next => exact emitSymbol_sound c _ h' hw'
        next wt l r he => exact ih _ h' hw' ⟨wt, l, r, he⟩

theorem decodeSymbol_sound (c : DecodeCmd) (h : Running w s) (hd : decoding s) :
    (decodeSymbol c s).Sound w c.instr fun _ t => decoding t := by
  unfold decodeSymbol
  split
  · exact ⟨h, hd⟩
  next hb =>
    split
    · exact ⟨by simp, h⟩
    next r hr =>
      have hroot : standsInside s r := by
        rw [h.tree_hist hd.1] at hr
        simpa only [standsInside, h.tree_hist hd.1] using Tree.ofHist_root_internal hr
      exact walkTree_sound c _ r h ⟨hb, hd.1, hd.2⟩ hroot

theorem decLoop_sound (n : Nat) (h : Running w s) (hd : decoding s) : (decLoop n s).Sound w .dec anyEnd := by
  induction n generalizing s with
  | zero => exact ⟨h.setResult_ofRead none, trivial⟩
  | succ n ih => exact (decodeSymbol_sound .dec h hd).andThen fun _ _ h' hd' => ih h' hd'

theorem afterSymbol_sound (c : DecodeCmd) (r : Option Byte) (h : Running w s) (hd : decoding s) :
    (afterSymbol c r s).Sound w c.instr anyEnd := by
  cases c with
  | decsym => exact ⟨h.setResult_ofRead r, trivial⟩
  | dec => exact decLoop_sound _ h hd

theorem iskipLoop_sound (q : List InItem) (h : Running w s) : (iskipLoop q s).Sound w .iskip anyEnd := by
  induction q generalizing s with
  | nil => exact ⟨h, .of_plain rfl rfl rfl rfl rfl⟩
  | cons it q ih =>
    cases it with
    | eos => exact ⟨h.setInput q, trivial⟩
    | ioerr => exact ⟨by simp, h.setInput q⟩
    | byte b => exact ih (h.setInput q)

/-! ### A command from its start and from where it waits -/

/-- A check made before a command begins (R214). -/
theorem checked_sound {b : Bool} {r : Run Unit} {c : ErrCode} {v : Word} (h : Running w s) (hc : c ≠ .none)
    (hr : b = true → r.Sound w i anyEnd) : (if b then r else .raised c v s).Sound w i anyEnd := by
  split
  next hb => exact hr hb
  · exact ⟨hc, h⟩

/-- Every command keeps what runs (R94). -/
theorem exec_sound (i : Instr) (h : Running w s) :
    ∃ r : Run Unit, exec i s = finish (encode i) r ∧ r.Sound w i anyEnd := by
  cases i with
  | nop => exact ⟨_, rfl, h.ends⟩
  | hclr =>
    have h' : Running w { s.invalidate with hist := Vector.replicate 256 0#32 } :=
      { h.invalidate with tree_hist := fun hv => absurd hv (by simp) }
    exact ⟨_, rfl, h'.ends⟩
  | hcnt => exact ⟨_, rfl, hcntLoop_sound _ h.invalidate rfl⟩
  | frqout => exact ⟨_, rfl, frqoutFrom_sound _ h⟩
  | frqin => exact ⟨_, rfl, frqinFrom_sound _ _ h.invalidate rfl⟩
  | build =>
    have h' : Running w { s with codesValid := false, tree := Tree.ofHist s.hist, treeValid := true } :=
      { h with codes_tree := fun _ => rfl, tree_hist := fun _ => rfl, codes_of := fun hv => nomatch hv }
    exact ⟨_, rfl, h'.ends⟩
  | gencodes =>
    exact ⟨_, rfl, by
      split
      next ht => exact ⟨{ h with codes_tree := fun _ => ht, codes_of := fun _ => rfl }, trivial⟩
      · exact ⟨by simp, h⟩⟩
  | bwbit val => exact ⟨_, rfl, checked_sound h (by simp) fun _ => writeBits_sound _ h rfl⟩
  | bwcode len bits => exact ⟨_, rfl, checked_sound h (by simp) fun _ => writeBits_sound _ h rfl⟩
  | bwclose => exact ⟨_, rfl, closeWriter_sound h⟩
  | encb sym => exact ⟨_, rfl, checked_sound h (by simp) fun _ => encodeSymbol_sound sym h rfl⟩
  | enc => exact ⟨_, rfl, checked_sound h (by simp) fun _ => encLoop_sound _ h⟩
  | bropen => exact ⟨_, rfl, h.openReader.ends⟩
  | brbit => exact ⟨_, rfl, checked_sound h (by simp) fun _ => brbitBody_sound h⟩
  | brsym =>
    exact ⟨_, rfl, checked_sound h (by simp) fun _ => (symbolConsumed_sound _ h).mono fun _ _ _ => trivial⟩
  | decsym =>
    exact ⟨_, rfl, checked_sound h (by simp) fun ht => checked_sound h (by simp) fun ho =>
      (decodeSymbol_sound .decsym h ⟨ht, ho⟩).andThen fun r _ h' hd => afterSymbol_sound .decsym r h' hd⟩
  | dec =>
    exact ⟨_, rfl, checked_sound h (by simp) fun ht =>
      decLoop_sound _ (h.setBudget _).openReader ⟨ht, rfl⟩⟩
  | iskip => exact ⟨_, rfl, iskipLoop_sound _ h⟩

/-- Going on from an answered push (R67). -/
theorem takeReply_sound {p : Progress} {a : Answer} (ha : s.reply = some a)
    (h : Running w (s.setReply none)) : (takeReply p s).Sound w i fun _ t => t = s.setReply none := by
  rcases takeReply_cases p s with ⟨hr, -⟩ | ⟨-, e⟩ | ⟨-, e⟩
  · exact absurd (ha.symm.trans hr) (by simp)
  · rw [e]; exact ⟨h, rfl⟩
  · rw [e]; exact ⟨by simp, h⟩

/-- A running command keeps what runs once the answer it waited for is taken. -/
theorem Inv.running (h : Inv s) (hrst : s.rst = false) (hb : s.busy = true) (hw : s.pending = some w) :
    Running w (s.setReply none) where
  rst := hrst
  busy := hb
  pending := hw
  done := Bool.eq_false_iff.2 fun hd => absurd (h.done_idle hd) (by simp [hb])
  err := h.busy_noErr hb
  errcode := by simpa [h.busy_noErr hb] using h.err_code
  errinfo := h.noErr_info (h.busy_noErr hb)
  reply := rfl
  codes_tree := h.codes_tree
  tree_hist := h.tree_hist
  codes_of := h.codes_of
  writer_clean := h.writer_clean
  exh_value := h.exh_value
  invalid_result := h.invalid_result

/-- Outside a push no answer is held (R67). -/
theorem Inv.reply_none (h : Inv s) (hp : s.progress.inPush = false) : s.reply = none :=
  Classical.by_contradiction fun hr => absurd (h.reply_push hr) (by simp [hp])

theorem Inv.running_of_not_inPush (h : Inv s) (hrst : s.rst = false) (hb : s.busy = true)
    (hw : s.pending = some w) (hp : s.progress.inPush = false) : Running w s := by
  have hs : s.setReply none = s := by rw [← h.reply_none hp]; rfl
  exact hs ▸ h.running hrst hb hw

theorem Inv.walking (h : Inv s) (hp : s.progress.inWalk = true) : Walking s :=
  have ⟨hb, ht, ho⟩ := h.walk_budget hp
  ⟨hb, ht, ho⟩

/-- A push that can go on has been answered (R67). -/
theorem reply_of_portReady (h : portReady s = true) (hp : s.progress.inPush = true) :
    ∃ a, s.reply = some a := by
  rw [← Option.isSome_iff_exists]
  cases he : s.progress <;> simp_all [portReady, Progress.inPush]

/-- A command that waits goes on as it began: it keeps what runs (R37). -/
theorem resume_sound (h : Inv s) (hrst : s.rst = false) (hb : s.busy = true) (hw : s.pending = some w)
    (hready : portReady s = true) (hstart : s.progress ≠ .start) (hr : runsUnder s.progress i = true) :
    (resume s.progress s).Sound w i anyEnd := by
  have hpull := h.running_of_not_inPush hrst hb hw
  have hpush := h.running hrst hb hw
  have hreply := reply_of_portReady hready
  have hcount := h.count_invalid
  have hwalk := h.walking
  cases hp : s.progress <;> rw [hp] at hr hpull hreply hcount hwalk
  case start => exact absurd hp hstart
  case hcnt =>
    obtain rfl : i = .hcnt := eq_of_beq hr
    exact hcntLoop_sound _ (hpull rfl) (hcount rfl)
  case frqout k =>
    obtain rfl : i = .frqout := eq_of_beq hr
    obtain ⟨a, ha⟩ := hreply rfl
    exact (takeReply_sound ha hpush).andThen fun _ _ h' _ => frqoutFrom_sound _ h'
  case frqin k v =>
    obtain rfl : i = .frqin := eq_of_beq hr
    exact frqinFrom_sound _ _ (hpull rfl) (hcount rfl)
  case write stream b rest =>
    obtain ⟨a, ha⟩ := hreply rfl
    refine (takeReply_sound ha hpush).andThen fun _ _ h' _ =>
      (writeBits_sound rest h' (runsUnder_write .. ▸ hr)).andThen fun _ _ h'' _ => ?_
    cases stream with
    | false => exact h''.ends
    | true =>
      obtain rfl : i = .enc := eq_of_beq hr
      exact encLoop_sound _ h''
  case close b =>
    obtain ⟨a, ha⟩ := hreply rfl
    exact (takeReply_sound ha hpush).mono fun _ _ _ => trivial
  case enc =>
    obtain rfl : i = .enc := eq_of_beq hr
    exact encLoop_sound _ (hpull rfl)
  case brbit =>
    obtain rfl : i = .brbit := eq_of_beq hr
    exact brbitBody_sound (hpull rfl)
  case walk c cur =>
    obtain rfl : i = c.instr := eq_of_beq (runsUnder_walk c cur ▸ hr)
    exact (walkTree_sound c _ cur (hpull rfl) (hwalk rfl) (h.walk_node c cur hp)).andThen
      fun r _ h' hd => afterSymbol_sound c r h' hd
  case emit c sym =>
    obtain rfl : i = c.instr := eq_of_beq (runsUnder_emit c sym ▸ hr)
    obtain ⟨a, ha⟩ := hreply rfl
    refine (takeReply_sound ha hpush).andThen fun _ t h' ht => ?_
    subst ht
    exact (countSymbol_sound c sym h' ⟨(hwalk rfl).tree, (hwalk rfl).opened⟩).andThen
      fun r _ h'' hd => afterSymbol_sound c r h'' hd
  case iskip =>
    obtain rfl : i = .iskip := eq_of_beq hr
    exact iskipLoop_sound _ (hpull rfl)

end Ports

/-! ### The core's move -/

section CoreMove
variable {w : Word} {i : Instr} {s t : State}

/-- Completion of what runs meets the invariant (R215). -/
theorem Running.inv_complete (h : Running w s) : Inv (complete s) where
  busy_pending := rfl
  idle_start _ := rfl
  waits_own _ hw := nomatch hw
  done_idle _ := rfl
  busy_noErr hb := nomatch hb
  err_code := by simp [h.err, h.errcode]
  noErr_info _ := h.errinfo
  codes_tree := h.codes_tree
  tree_hist := h.tree_hist
  codes_of := h.codes_of
  writer_clean := h.writer_clean
  exh_value := h.exh_value
  invalid_result := h.invalid_result
  walk_budget hp := nomatch hp
  walk_node _ _ hp := nomatch hp
  count_invalid hp := nomatch hp
  push_empty hp := nomatch hp
  reply_push hr := absurd h.reply hr
  push_answers hp := nomatch hp
  rst_held hr := absurd (h.rst.symm.trans hr) (by simp)

/-- Error entry of what runs meets the invariant when the error has a code (R213). -/
theorem Running.inv_errorEntry (h : Running w s) (v : Word) {c : ErrCode} (hc : c ≠ .none) (info : Word) :
    Inv (errorEntry v c info s) where
  busy_pending := rfl
  idle_start _ := rfl
  waits_own _ hw := nomatch hw
  done_idle _ := rfl
  busy_noErr hb := nomatch hb
  err_code := by simp [hc]
  noErr_info he := nomatch he
  codes_tree := h.codes_tree
  tree_hist := h.tree_hist
  codes_of := h.codes_of
  writer_clean := h.writer_clean
  exh_value := by
    rw [errorEntry_result]
    split
    · exact fun _ => rfl
    · exact h.exh_value
  invalid_result := by
    rw [errorEntry_result]
    split
    · exact fun _ => rfl
    · exact h.invalid_result
  walk_budget hp := nomatch hp
  walk_node _ _ hp := nomatch hp
  count_invalid hp := nomatch hp
  push_empty hp := nomatch hp
  reply_push hr := absurd h.reply hr
  push_answers hp := nomatch hp
  rst_held hr := absurd (h.rst.symm.trans hr) (by simp)

/-- A wait of what runs at a place of its own meets the invariant (R37). -/
theorem Running.inv_hold (h : Running w s) (hi : decode w = .ok i) {p : Progress} (hp : CanWait i p s) :
    Inv (hold p s) where
  busy_pending := by simp [h.busy, h.pending]
  idle_start hb := absurd (h.busy.symm.trans hb) (by simp)
  waits_own v hv _ := ⟨i, Option.some.inj (h.pending.symm.trans hv) ▸ hi, hp.own⟩
  done_idle hd := absurd (h.done.symm.trans hd) (by simp)
  busy_noErr _ := h.err
  err_code := by simp [h.err, h.errcode]
  noErr_info _ := h.errinfo
  codes_tree := h.codes_tree
  tree_hist := h.tree_hist
  codes_of := h.codes_of
  writer_clean := h.writer_clean
  exh_value := h.exh_value
  invalid_result := h.invalid_result
  walk_budget hw := ⟨(hp.walk hw).budget, (hp.walk hw).tree, (hp.walk hw).opened⟩
  walk_node := hp.node
  count_invalid := hp.count
  push_empty := hp.writer
  reply_push hr := absurd h.reply hr
  push_answers hw _ := hp.push hw
  rst_held hr := absurd (h.rst.symm.trans hr) (by simp)

/-- However a command's run ends, its end meets the invariant. -/
theorem Run.Sound.inv_finish {r : Run Unit} (h : r.Sound w i anyEnd) (hi : decode w = .ok i) {v : Word}
    (hf : finish v r = .next t) : Inv t := by
  rcases finish_cases hf with ⟨u, rfl, rfl⟩ | ⟨c, x, u, rfl, rfl⟩ | ⟨p, u, rfl, rfl⟩
  · exact h.1.inv_complete
  · exact h.2.inv_errorEntry v h.1 x
  · exact h.1.inv_hold hi h.2

/-- What the core needs for its move (R37, R240). -/
theorem coreTurn_true (h : coreTurn s = true) :
    s.rst = false ∧ s.busy = true ∧ (∃ w, s.pending = some w) ∧ portReady s = true := by
  simp only [coreTurn, coreReady, Bool.and_eq_true, Bool.not_eq_true', Option.isSome_iff_exists] at h
  obtain ⟨⟨⟨⟨hrst, hb⟩, hw⟩, hp⟩, -⟩ := h
  exact ⟨hrst, hb, hw, hp⟩

/-- Everything the core's move can be: a refused word's error entry, a command begun, or one gone on with
(R90, R214). -/
theorem coreStep_cases (hw : s.pending = some w) :
    (∃ c, c ≠ .none ∧ s.progress = .start ∧ coreStep s = .next (errorEntry w c w s)) ∨
      (∃ i, s.progress = .start ∧ decode w = .ok i ∧ coreStep s = exec i s) ∨
      (s.progress ≠ .start ∧ coreStep s = finish w (resume s.progress s)) := by
  by_cases hp : s.progress = .start
  · cases hd : decode w with
    | ok i => exact .inr (.inl ⟨i, hp, rfl, by simp [coreStep, hw, hp, hd]⟩)
    | error e =>
      cases e with
      | illegalCmd => exact .inl ⟨.illegalCmd, by simp, hp, by simp [coreStep, hw, hp, hd]⟩
      | badOperand => exact .inl ⟨.badOperand, by simp, hp, by simp [coreStep, hw, hp, hd]⟩
  · refine .inr (.inr ⟨hp, ?_⟩)
    unfold coreStep
    rw [hw]
    cases he : s.progress with
    | start => exact absurd he hp
    | _ => rfl

theorem coreStep_inv (h : Inv s) (hturn : coreTurn s = true) (hs : coreStep s = .next t) : Inv t := by
  obtain ⟨hrst, hb, ⟨w, hw⟩, hready⟩ := coreTurn_true hturn
  rcases coreStep_cases hw with ⟨c, hc, hp, e⟩ | ⟨i, hp, hi, e⟩ | ⟨hp, e⟩ <;> rw [e] at hs
  · obtain rfl : errorEntry w c w s = t := by simpa using hs
    exact (h.running_of_not_inPush hrst hb hw (by rw [hp]; rfl)).inv_errorEntry w hc w
  · obtain ⟨r, hr, hsound⟩ := exec_sound i (h.running_of_not_inPush hrst hb hw (by rw [hp]; rfl))
    exact hsound.inv_finish hi (hr ▸ hs)
  · obtain ⟨i, hi, hown⟩ := h.waits_own w hw hp
    exact (resume_sound h hrst hb hw hready hp hown).inv_finish hi hs

end CoreMove

end Sys2Proof.Machine
end

section
/-! PROOFS. What the host's moves keep: the invariant, move by move (R60 to R67, R77, R240 to R242). -/

namespace Sys2Proof.Machine

section Host
variable {s t : State}

/-! ### Reset -/

/-- Every element at R41's value meets the invariant, whatever the ports and the host hold. -/
theorem inv_hardReset (s : State) : Inv (hardReset s) where
  busy_pending := rfl
  idle_start _ := rfl
  waits_own _ hw := nomatch hw
  done_idle _ := rfl
  busy_noErr hb := nomatch hb
  err_code := by simp [State.reset]
  noErr_info _ := rfl
  codes_tree hv := nomatch hv
  tree_hist hv := nomatch hv
  codes_of hv := nomatch hv
  writer_clean := by simp [writerClean, State.reset]
  exh_value he := nomatch he
  invalid_result _ := rfl
  walk_budget hp := nomatch hp
  walk_node _ _ hp := nomatch hp
  count_invalid hp := nomatch hp
  push_empty hp := nomatch hp
  reply_push hr := absurd rfl hr
  push_answers hp := nomatch hp
  rst_held _ := rfl

theorem inv_assertReset (s : State) : Inv (assertReset s) := inv_hardReset { s with rst := true }

theorem Inv.releaseReset (h : Inv s) : Inv (releaseReset s) := by
  unfold Machine.releaseReset
  split
  · exact inv_hardReset { s with rst := false }
  · exact h

/-! ### The ports and the host's own fields -/

/-- Under an asserted `rst` no command is under way (R240). -/
theorem Inv.start_of_rst (h : Inv s) (hr : s.rst = true) : s.progress = .start := by
  rw [h.rst_held hr]; rfl

/-- A command under way, so `rst` is not asserted (R240). -/
theorem Inv.rst_of_not_start (h : Inv s) (hp : s.progress ≠ .start) : s.rst = false :=
  Bool.eq_false_iff.2 fun hr => hp (h.start_of_rst hr)

/-- The invariant does not speak of the ports and the host but for the answers behind an unanswered push. -/
theorem Inv.hostSide (h : Inv s) (input : List InItem) (answers : List Answer) (sink : Option Nat)
    (output : List Byte) (host : List HostMove) (readData : Word) (draws : Nat)
    (ha : s.progress.inPush = true → s.reply = none → answers = []) :
    Inv { s with
      input := input, answers := answers, sink := sink, output := output, host := host
      readData := readData, draws := draws } :=
  { h with
    push_answers := ha
    rst_held := fun hr => congrArg (fun u : State =>
      { u with
        input := input, answers := answers, sink := sink, output := output, host := host
        readData := readData, draws := draws }) (h.rst_held hr) }

theorem Inv.readReg (h : Inv s) (r : Reg) : Inv (readReg r s) := by
  unfold Machine.readReg
  split
  · exact h.hostSide _ _ _ _ _ _ _ h.push_answers
  · exact h.hostSide _ _ _ _ _ _ _ h.push_answers

theorem inPush_iff_offeredByte : s.progress.inPush = true ↔ ∃ b, offeredByte s = some b := by
  unfold offeredByte
  cases s.progress <;> simp [Progress.inPush]

/-- An answer to the push on offer keeps the invariant. -/
theorem Inv.answered (h : Inv s) {b : Byte} (ho : offeredByte s = some b) (sink : Option Nat)
    (output : List Byte) (a : Answer) :
    Inv { s with sink := sink, reply := some a, output := output } := by
  have hp : s.progress.inPush = true := inPush_iff_offeredByte.2 ⟨b, ho⟩
  have hrst : s.rst = false := h.rst_of_not_start fun he => by simp [he, Progress.inPush] at hp
  exact { h with
    reply_push := fun _ => hp
    push_answers := fun _ hr => nomatch hr
    rst_held := fun hr => absurd (hrst.symm.trans hr) (by simp) }

theorem Inv.answerPush (h : Inv s) (a : Answer) : Inv (answerPush a s) := by
  rcases answerPush_cases a s with ⟨b, ho, -, ⟨-, e⟩ | ⟨-, e⟩⟩ | ⟨ho, e⟩ <;> rw [e]
  · exact h.answered ho _ _ _
  · exact h.answered ho _ _ _
  · refine h.hostSide _ _ _ _ _ _ _ fun hp hr => ?_
    obtain ⟨b, hb⟩ := inPush_iff_offeredByte.1 hp
    simp [hb, hr] at ho

theorem Inv.startSink (h : Inv s) (k : Nat) : Inv (startSink k s) := h.hostSide _ _ _ _ _ _ _ fun _ _ => rfl

/-! ### Register writes -/

theorem Inv.reject (h : Inv s) (hrst : s.rst = false) : Inv s.reject :=
  { h with rst_held := fun hr => absurd (hrst.symm.trans hr) (by simp) }

theorem Inv.writeCtrl (h : Inv s) (hrst : s.rst = false) (v : Word) : Inv (writeCtrl v s) := by
  unfold Machine.writeCtrl
  split
  · exact inv_hardReset s
  · exact { h with rst_held := fun hr => absurd (hrst.symm.trans hr) (by simp) }

/-- The whole effect of a STATUS write (R25, R216). -/
theorem writeStatus_eq (v : Word) (s : State) : writeStatus v s =
    { s with
      done := s.done && !v.getLsbD 1
      err := s.err && !v.getLsbD 2
      rej := s.rej && !v.getLsbD 3
      errcode := if v.getLsbD 2 then .none else s.errcode
      errinfo := if v.getLsbD 2 then 0#32 else s.errinfo } := by
  unfold writeStatus
  cases v.getLsbD 1 <;> cases v.getLsbD 2 <;> cases v.getLsbD 3 <;> simp [clearError]

theorem Inv.writeStatus (h : Inv s) (hrst : s.rst = false) (v : Word) : Inv (writeStatus v s) := by
  rw [writeStatus_eq]
  exact { h with
    done_idle := fun hd => h.done_idle (Bool.and_elim_left hd)
    busy_noErr := fun hb => by simp [h.busy_noErr hb]
    err_code := by cases v.getLsbD 2 <;> simp [h.err_code]
    noErr_info := by
      cases v.getLsbD 2 with
      | true => simp
      | false => simpa using h.noErr_info
    rst_held := fun hr => absurd (hrst.symm.trans hr) (by simp) }

/-- Between commands no answer is held. -/
theorem Inv.reply_of_idle (h : Inv s) (hb : s.busy = false) : s.reply = none :=
  h.reply_none (by rw [h.idle_start hb]; rfl)

theorem Inv.writeCmd (h : Inv s) (hrst : s.rst = false) (w : Word) : Inv (writeCmd w s) := by
  unfold Machine.writeCmd
  split
  · exact h.reject hrst
  next hidle =>
    simp only [Bool.or_eq_true, not_or, Bool.not_eq_true] at hidle
    obtain ⟨hb, he⟩ := hidle
    exact { h with
      busy_pending := rfl
      idle_start := fun hb => nomatch hb
      waits_own := fun _ _ hp => absurd rfl hp
      done_idle := fun hd => nomatch hd
      busy_noErr := fun _ => he
      walk_budget := fun hp => nomatch hp
      walk_node := fun _ _ hp => nomatch hp
      count_invalid := fun hp => nomatch hp
      push_empty := fun hp => nomatch hp
      reply_push := fun hr => absurd (h.reply_of_idle hb) hr
      push_answers := fun hp => nomatch hp
      rst_held := fun hr => absurd (hrst.symm.trans hr) (by simp) }

/-- Between commands BUDGET is the host's to write (R34). -/
theorem Inv.setBudget_of_idle (h : Inv s) (hrst : s.rst = false) (hb : s.busy = false) (g : Weight) :
    Inv (s.setBudget g) :=
  { h with
    walk_budget := fun hp => by simp [h.idle_start hb, Progress.inWalk] at hp
    rst_held := fun hr => absurd (hrst.symm.trans hr) (by simp) }

theorem Inv.writeHist (h : Inv s) (hrst : s.rst = false) (i : Byte) (v : Word) : Inv (writeHist i v s) := by
  unfold Machine.writeHist
  split
  · exact h.reject hrst
  next hb =>
    exact { h with
      codes_tree := fun hv => nomatch hv
      tree_hist := fun hv => nomatch hv
      codes_of := fun hv => nomatch hv
      walk_budget := fun hp => by simp [h.idle_start (by simpa using hb), Progress.inWalk] at hp
      count_invalid := fun _ => rfl
      rst_held := fun hr => absurd (hrst.symm.trans hr) (by simp) }

theorem Inv.writeReg (h : Inv s) (hrst : s.rst = false) (r : Reg) (v : Word) : Inv (writeReg r v s) := by
  cases r with
  | ctrl => exact h.writeCtrl hrst v
  | status => exact h.writeStatus hrst v
  | cmd => exact h.writeCmd hrst v
  | hist i => exact h.writeHist hrst i v
  | budgetLo =>
    simp only [Machine.writeReg, writeBudgetLo]
    split
    · exact h.reject hrst
    next hb => exact h.setBudget_of_idle hrst (by simpa using hb) _
  | budgetHi =>
    simp only [Machine.writeReg, writeBudgetHi]
    split
    · exact h.reject hrst
    next hb => exact h.setBudget_of_idle hrst (by simpa using hb) _
  | _ => exact h

theorem Inv.hostWrite (h : Inv s) (a : RegAddr) (v : Word) : Inv (hostWrite a v s) := by
  unfold Machine.hostWrite
  split
  · exact h
  next hr => exact h.writeReg (by simpa using hr) _ v

/-! ### The host's turn -/

theorem Inv.perform (h : Inv s) (a : HostAction) : Inv (perform a s) := by
  cases a with
  | read addr => exact h.readReg _
  | write addr v => exact h.hostWrite addr v
  | present it => exact h.hostSide _ _ _ _ _ _ _ h.push_answers
  | answer x => exact h.answerPush x
  | sinkFail k => exact h.startSink k
  | wait =>
    have h' := h.readReg .status
    simp only [Machine.perform]
    split
    · exact h'.hostSide _ _ _ _ _ _ _ h'.push_answers
    · exact h'
  | assertReset => exact inv_assertReset s
  | releaseReset => exact h.releaseReset

theorem Inv.hostMove (h : Inv s) : Inv (hostMove s) := by
  unfold Machine.hostMove
  split
  · exact h
  next m rest _ => exact (h.hostSide _ _ _ _ rest _ _ h.push_answers).perform m.act

theorem Inv.hostStep (h : Inv s) : Inv (hostStep s) := by
  rcases hostStep_cases s with ⟨k, b, -, ho, -, -, ⟨-, e⟩ | ⟨-, e⟩⟩ | e <;> rw [e]
  · exact h.answered ho _ _ _
  · exact h.answered ho _ _ _
  · exact h.hostMove

end Host

/-! ### Every step -/

theorem step_of_coreTurn {s : State} (h : coreTurn s = true) : step s = coreStep s := by simp [step, h]

theorem step_of_hostTurn {s : State} (h : coreTurn s = false) : step s = .next (hostStep s) := by
  simp [step, h]

/-- Every step keeps the invariant. -/
theorem step_inv {s t : State} (h : Inv s) (hs : step s = .next t) : Inv t := by
  cases hc : coreTurn s with
  | true => exact coreStep_inv h hc (step_of_coreTurn hc ▸ hs)
  | false =>
    obtain rfl : hostStep s = t := by simpa [step_of_hostTurn hc] using hs
    exact h.hostStep

end Sys2Proof.Machine

end

section
/-! PROOFS. What each move does to HIST, TREE_VALID and CODES_VALID (R39). -/

namespace Sys2Proof.Machine

/-! ### The opcode of what a word decodes to -/

theorem eq_of_acceptOperand {b : Bool} {i j : Instr} (h : acceptOperand b i = .ok j) : j = i := by
  unfold acceptOperand at h
  split at h <;> cases h
  rfl

/-- One row of the opcode map (R94). -/
theorem opc_of_row {opc c : BitVec 8} {x y : Except DecodeError Instr} {i : Instr}
    (hx : x = .ok i → c = i.opc) (hy : y = .ok i → opc = i.opc) :
    (if opc = c then x else y) = .ok i → opc = i.opc := by
  split
  next h => exact h ▸ hx
  · exact hy

/-- The command a word decodes to stands in the row of the word's OPC (R94). -/
theorem opcOf_of_decode {w : Word} {i : Instr} : decode w = .ok i → opcOf w = i.opc := by
  unfold decode decodeOpc
  iterate 18 refine opc_of_row (fun h => eq_of_acceptOperand h ▸ rfl) ?_
  exact fun h => nomatch h

/-! ### HIST and the two valid bits -/

/-- HIST and the valid bits stay as they are. -/
def validKept (s t : State) : Prop :=
  t.hist = s.hist ∧ t.treeValid = s.treeValid ∧ t.codesValid = s.codesValid

/-- What R39 lets a move do to HIST and the valid bits: clear both bits, a valid tree only where `clears`; or keep
HIST and the valid bits that are 1, but for CODES_VALID where `rebuilds`. -/
def validMove (clears rebuilds : Prop) (s t : State) : Prop :=
  (t.treeValid = false ∧ t.codesValid = false ∧ (s.treeValid = true → clears)) ∨
    (t.hist = s.hist ∧ (s.treeValid = true → t.treeValid = true) ∧
      (s.codesValid = true → t.codesValid = true ∨ rebuilds))

section
variable {s t u : State} {c r : Prop}

theorem validKept.trans (h : validKept s t) (h' : validKept t u) : validKept s u :=
  ⟨h'.1.trans h.1, h'.2.1.trans h.2.1, h'.2.2.trans h.2.2⟩

theorem validKept.move (h : validKept s t) : validMove c r s t := by
  obtain ⟨hh, ht, hc⟩ := h
  exact .inr ⟨hh, fun hv => ht.trans hv, fun hv => .inl (hc.trans hv)⟩

theorem validMove.imp {c' r' : Prop} (h : validMove c r s t) (hc : c → c') (hr : r → r') :
    validMove c' r' s t :=
  Or.imp (fun ⟨ht, hv, h⟩ => ⟨ht, hv, fun hs => hc (h hs)⟩)
    (fun ⟨hh, ht, h⟩ => ⟨hh, ht, fun hs => (h hs).imp_right hr⟩) h

/-- The end of a command leaves HIST and the valid bits as its run left them (R213, R215, R37). -/
theorem validKept_finish {w : Word} {m : Run Unit} (h : finish w m = .next t) : validKept m.state t := by
  rcases finish_cases h with ⟨v, rfl, rfl⟩ | ⟨e, i, v, rfl, rfl⟩ | ⟨p, v, rfl, rfl⟩ <;> exact ⟨rfl, rfl, rfl⟩

/-! ### The core's move -/

theorem validKept_checked {α : Type} {b : Bool} {m : Run α} {e : ErrCode} {i : Word}
    (h : validKept s m.state) : validKept s (if b then m else .raised e i s).state := by
  split
  · exact h
  · exact ⟨rfl, rfl, rfl⟩

theorem validKept_writeBits (stream : Bool) (bits : List Bool) :
    validKept s (writeBits stream bits s).state := by
  obtain ⟨x, n, o, a, e⟩ := writeBits_state stream bits s
  exact e ▸ ⟨rfl, rfl, rfl⟩

theorem validKept_encLoop (q : List InItem) : validKept s (encLoop q s).state := by
  obtain ⟨x, n, o, a, i, e⟩ := encLoop_state q s
  exact e ▸ ⟨rfl, rfl, rfl⟩

theorem validKept_frqoutFrom (n : Nat) : validKept s (frqoutFrom n s).state := by
  obtain ⟨o, a, e⟩ := frqoutFrom_state n s
  exact e ▸ ⟨rfl, rfl, rfl⟩

theorem validKept_iskipLoop (q : List InItem) : validKept s (iskipLoop q s).state := by
  obtain ⟨i, e⟩ := iskipLoop_state q s
  exact e ▸ ⟨rfl, rfl, rfl⟩

theorem validKept_brbitBody : validKept s (brbitBody s).state := by
  refine Run.andThen_state (R := validKept) (fun _ _ _ => .trans) ?_ fun _ _ _ => ⟨rfl, rfl, rfl⟩
  obtain ⟨b, n, i, e⟩ := readBit_state .brbit s
  exact e ▸ ⟨rfl, rfl, rfl⟩

theorem decodeTouches.validKept (h : decodeTouches s t) : validKept s t := by
  obtain ⟨b, n, i, g, o, a, rfl⟩ := h
  exact ⟨rfl, rfl, rfl⟩

theorem validKept_decLoop (n : Nat) : validKept s (decLoop n s).state := by
  obtain ⟨v, x, hv, e⟩ := decLoop_state n s
  exact e ▸ hv.validKept

theorem validKept_afterSymbol (d : DecodeCmd) (x : Option Byte) : validKept s (afterSymbol d x s).state := by
  cases d with
  | decsym => exact ⟨rfl, rfl, rfl⟩
  | dec => exact validKept_decLoop _

theorem validKept_takeReply (p : Progress) : validKept s (takeReply p s).state := by
  rcases takeReply_cases p s with ⟨-, e⟩ | ⟨-, e⟩ | ⟨-, e⟩ <;> exact e ▸ ⟨rfl, rfl, rfl⟩

theorem validKept_andThen {α β : Type} {m : Run α} {k : α → State → Run β} (hm : validKept s m.state)
    (hk : ∀ a t, validKept t (k a t).state) : validKept s (m.andThen k).state :=
  Run.andThen_state (R := validKept) (fun _ _ _ => .trans) hm fun a t _ => hk a t

/-- HCNT, on its way, writes no valid bit. -/
theorem hcntLoop_valid (q : List InItem) :
    (hcntLoop q s).state.treeValid = s.treeValid ∧ (hcntLoop q s).state.codesValid = s.codesValid := by
  obtain ⟨h, i, e⟩ := hcntLoop_state q s
  exact e ▸ ⟨rfl, rfl⟩

/-- FRQIN, on its way, writes no valid bit. -/
theorem frqinFrom_valid (n : Nat) (v : Word) :
    (frqinFrom n v s).state.treeValid = s.treeValid ∧ (frqinFrom n v s).state.codesValid = s.codesValid := by
  obtain ⟨h, i, e⟩ := frqinFrom_state n v s
  exact e ▸ ⟨rfl, rfl⟩

/-- A command clears TREE_VALID only where it changes HIST, and CODES_VALID only there and in BUILD (R39). -/
theorem exec_validMove {i : Instr} (h : exec i s = .next t) :
    validMove (i = .hclr ∨ i = .hcnt ∨ i = .frqin) (i = .build) s t := by
  have kept {m : Run Unit} (he : exec i s = finish (encode i) m) (hm : validKept s m.state) :
      validMove (i = .hclr ∨ i = .hcnt ∨ i = .frqin) (i = .build) s t :=
    (hm.trans (validKept_finish (he ▸ h))).move
  cases i with
  | nop => exact kept (m := .ok () s) rfl ⟨rfl, rfl, rfl⟩
  | hclr =>
    obtain ⟨-, ht, hc⟩ := validKept_finish (w := encode .hclr)
      (m := .ok () { s.invalidate with hist := Vector.replicate 256 0#32 }) h
    exact .inl ⟨ht, hc, fun _ => .inl rfl⟩
  | hcnt =>
    obtain ⟨-, ht, hc⟩ := validKept_finish h
    have hv := hcntLoop_valid (s := s.invalidate) s.invalidate.input
    exact .inl ⟨ht.trans hv.1, hc.trans hv.2, fun _ => .inr (.inl rfl)⟩
  | frqout => exact kept rfl (validKept_frqoutFrom _)
  | frqin =>
    obtain ⟨-, ht, hc⟩ := validKept_finish h
    have hv := frqinFrom_valid (s := s.invalidate) Config.tableBytes 0#32
    exact .inl ⟨ht.trans hv.1, hc.trans hv.2, fun _ => .inr (.inr rfl)⟩
  | build =>
    obtain ⟨hh, ht, -⟩ := validKept_finish (w := encode .build)
      (m := .ok () { s with codesValid := false, tree := Tree.ofHist s.hist, treeValid := true }) h
    exact .inr ⟨hh, fun _ => ht, fun _ => .inr rfl⟩
  | gencodes =>
    cases hv : s.treeValid with
    | false =>
      exact kept (m := .raised .noTree (encode .gencodes) s) (by simp [exec, execGencodes, hv]) ⟨rfl, rfl, rfl⟩
    | true =>
      have he : exec .gencodes s =
          finish (encode .gencodes) (.ok () { s with code := codesOf s.tree, codesValid := true }) := by
        simp [exec, execGencodes, hv]
      obtain ⟨hh, ht, hc⟩ := validKept_finish (he ▸ h)
      exact .inr ⟨hh, fun _ => ht.trans hv, fun _ => .inl hc⟩
  | bwbit val => exact kept rfl (validKept_checked (validKept_writeBits _ _))
  | bwcode len bits => exact kept rfl (validKept_checked (validKept_writeBits _ _))
  | bwclose =>
    obtain ⟨x, n, o, a, e⟩ := closeWriter_state s
    exact kept rfl (e ▸ ⟨rfl, rfl, rfl⟩)
  | encb sym =>
    obtain ⟨x, n, o, a, e⟩ := encodeSymbol_state false sym s
    exact kept rfl (validKept_checked (e ▸ ⟨rfl, rfl, rfl⟩))
  | enc => exact kept rfl (validKept_checked (validKept_encLoop _))
  | bropen => exact kept (m := .ok () s.openReader) rfl ⟨rfl, rfl, rfl⟩
  | brbit => exact kept rfl (validKept_checked validKept_brbitBody)
  | brsym =>
    refine kept rfl (validKept_checked ?_)
    rcases symbolConsumed_cases (encode .brsym) s with ⟨-, e⟩ | ⟨-, e⟩ <;> exact e ▸ ⟨rfl, rfl, rfl⟩
  | decsym =>
    exact kept rfl (validKept_checked (validKept_checked
      (validKept_andThen (decodeSymbol_state _ s).validKept fun _ _ => validKept_afterSymbol _ _)))
  | dec =>
    exact kept rfl (validKept_checked
      (validKept.trans ⟨rfl, rfl, rfl⟩ (validKept_decLoop (s := (s.setBudget s.tree.total).openReader) _)))
  | iskip => exact kept rfl (validKept_iskipLoop _)

/-- A command that goes on from its wait leaves the valid bits, and HIST but where it counts (R112, R114). -/
theorem resume_validMove {w : Word} (hi : Inv s) (h : finish w (resume s.progress s) = .next t) :
    validMove c r s t := by
  have hend := validKept_finish h
  cases hc : s.progress.inCount with
  | true =>
    have htree := hi.count_invalid hc
    have hcodes : s.codesValid = false :=
      Bool.eq_false_iff.2 fun hv => absurd (hi.codes_tree hv) (by simp [htree])
    obtain ⟨-, ht, hv⟩ := hend
    have hstay : (resume s.progress s).state.treeValid = s.treeValid ∧
        (resume s.progress s).state.codesValid = s.codesValid := by
      cases hp : s.progress <;> rw [hp] at hc <;> cases hc
      · exact hcntLoop_valid _
      · exact frqinFrom_valid _ _
    exact .inl ⟨ht.trans (hstay.1.trans htree), hv.trans (hstay.2.trans hcodes),
      fun hs => absurd (htree.symm.trans hs) (by simp)⟩
  | false =>
    suffices hk : validKept s (resume s.progress s).state from (hk.trans hend).move
    cases hp : s.progress with
    | start => exact ⟨rfl, rfl, rfl⟩
    | hcnt | frqin k v => simp [hp, Progress.inCount] at hc
    | frqout k => exact validKept_andThen (validKept_takeReply _) fun _ _ => validKept_frqoutFrom _
    | write stream b rest =>
      refine validKept_andThen (validKept_takeReply _) fun _ _ =>
        validKept_andThen (validKept_writeBits _ _) fun _ _ => ?_
      split
      · exact validKept_encLoop _
      · exact ⟨rfl, rfl, rfl⟩
    | close b => exact validKept_takeReply _
    | enc => exact validKept_encLoop _
    | brbit => exact validKept_brbitBody
    | walk d cur =>
      exact validKept_andThen (walkTree_state d _ cur s).validKept fun _ _ => validKept_afterSymbol _ _
    | emit d sym =>
      exact validKept_andThen (validKept_takeReply _) fun _ _ =>
        validKept_andThen (countSymbol_state d sym _).validKept fun _ _ => validKept_afterSymbol _ _
    | iskip => exact validKept_iskipLoop _

/-- The core's move, by the OPC of the pending word (R39, R94). -/
theorem coreStep_validMove {w : Word} (hi : Inv s) (hw : s.pending = some w) (h : coreStep s = .next t) :
    validMove (opcOf w ∈ [0x01#8, 0x02#8, 0x04#8]) (opcOf w = 0x10#8) s t := by
  rcases coreStep_cases hw with ⟨e, -, -, he⟩ | ⟨i, -, hd, he⟩ | ⟨-, he⟩ <;> rw [he] at h
  · obtain rfl : errorEntry w e w s = t := by simpa using h
    exact validKept.move ⟨rfl, rfl, rfl⟩
  · rw [opcOf_of_decode hd]
    exact (exec_validMove h).imp (by rintro (rfl | rfl | rfl) <;> decide) (by rintro rfl; rfl)
  · exact resume_validMove hi h

/-! ### The host's move -/

/-- The host's moves that may clear TREE_VALID: reset, and a write of a HIST entry (R39, R41). -/
def HostAction.clears (a : HostAction) : Prop :=
  a = .assertReset ∨
    ∃ ad v, a = .write ad v ∧ (Reg.ofAddr ad = .ctrl ∧ v.getLsbD 1 = true ∨ ∃ i, Reg.ofAddr ad = .hist i)

theorem validKept_readReg (x : Reg) : validKept s (readReg x s) := by
  unfold readReg
  split <;> exact ⟨rfl, rfl, rfl⟩

theorem validKept_answerPush (a : Answer) : validKept s (answerPush a s) := by
  rcases answerPush_cases a s with ⟨b, -, -, ⟨-, e⟩ | ⟨-, e⟩⟩ | ⟨-, e⟩ <;> exact e ▸ ⟨rfl, rfl, rfl⟩

/-- Of the registers only CTRL and HIST may clear the valid bits. -/
theorem writeReg_validMove (x : Reg) (v : Word) :
    validMove (x = .ctrl ∧ v.getLsbD 1 = true ∨ ∃ i, x = .hist i) False s (writeReg x v s) := by
  cases x with
  | ctrl =>
    simp only [writeReg, writeCtrl]
    split
    next hv => exact .inl ⟨rfl, rfl, fun _ => .inl ⟨trivial, hv⟩⟩
    · exact validKept.move ⟨rfl, rfl, rfl⟩
  | hist i =>
    simp only [writeReg, writeHist]
    split
    · exact validKept.move ⟨rfl, rfl, rfl⟩
    · exact .inl ⟨rfl, rfl, fun _ => .inr ⟨i, rfl⟩⟩
  | status =>
    have h : validKept s (writeStatus v s) := writeStatus_eq v s ▸ ⟨rfl, rfl, rfl⟩
    exact h.move
  | cmd => simp only [writeReg, writeCmd]; split <;> exact validKept.move ⟨rfl, rfl, rfl⟩
  | budgetLo => simp only [writeReg, writeBudgetLo]; split <;> exact validKept.move ⟨rfl, rfl, rfl⟩
  | budgetHi => simp only [writeReg, writeBudgetHi]; split <;> exact validKept.move ⟨rfl, rfl, rfl⟩
  | _ => exact validKept.move ⟨rfl, rfl, rfl⟩

theorem perform_validMove (hi : Inv s) (a : HostAction) : validMove a.clears False s (perform a s) := by
  cases a with
  | read ad => exact (validKept_readReg _).move
  | write ad v =>
    simp only [perform, hostWrite]
    split
    · exact validKept.move ⟨rfl, rfl, rfl⟩
    · exact (writeReg_validMove _ v).imp (fun h => .inr ⟨ad, v, rfl, h⟩) id
  | present it => exact validKept.move ⟨rfl, rfl, rfl⟩
  | answer x => exact (validKept_answerPush x).move
  | sinkFail k => exact validKept.move ⟨rfl, rfl, rfl⟩
  | wait =>
    have h := validKept_readReg (s := s) .status
    simp only [perform]
    split
    · exact (h.trans ⟨rfl, rfl, rfl⟩).move
    · exact h.move
  | assertReset => exact .inl ⟨rfl, rfl, fun _ => .inl rfl⟩
  | releaseReset =>
    simp only [perform, releaseReset]
    split
    next hr => exact .inl ⟨rfl, rfl, fun hv => by rw [hi.rst_held hr] at hv; cases hv⟩
    · exact validKept.move ⟨rfl, rfl, rfl⟩

/-- The host's turn clears the valid bits by its next move only: its standing answer plan leaves them. -/
theorem hostStep_validMove (hi : Inv s) :
    validMove (∃ m rest, s.host = m :: rest ∧ m.act.clears) False s (hostStep s) := by
  rcases hostStep_cases s with ⟨k, b, -, -, -, -, ⟨-, e⟩ | ⟨-, e⟩⟩ | e <;> rw [e]
  · exact validKept.move ⟨rfl, rfl, rfl⟩
  · exact validKept.move ⟨rfl, rfl, rfl⟩
  · unfold hostMove
    split
    · exact validKept.move ⟨rfl, rfl, rfl⟩
    next m rest hm =>
      have hi' : Inv { s with host := rest } := hi.hostSide _ _ _ _ rest _ _ hi.push_answers
      exact (perform_validMove hi' m.act).imp (fun h => ⟨m, rest, hm, h⟩) id

end

end Sys2Proof.Machine
end

section
/-! PROOFS. The statements about the state settled. -/

namespace Sys2Proof.Machine

/-! ### Whose turn it is -/

section Turns
variable {s : State}

/-- A command not yet begun is the core's to begin, unless the host goes first (R90). -/
theorem step_of_start {w : Word} {i : Instr} (hrst : s.rst = false) (hb : s.busy = true)
    (hw : s.pending = some w) (hp : s.progress = .start) (hf : hostFirst s = false) (hd : decode w = .ok i) :
    step s = exec i s := by
  have hturn : coreTurn s = true := by simp [coreTurn, coreReady, portReady, hrst, hb, hw, hp, hf]
  rw [step_of_coreTurn hturn]
  simp [coreStep, hw, hp, hd]

theorem coreStep_next (s : State) : ∃ t, coreStep s = .next t := by
  cases hw : s.pending with
  | none => exact ⟨s, by simp [coreStep, hw]⟩
  | some w =>
    rcases coreStep_cases hw with ⟨c, -, -, e⟩ | ⟨i, -, -, e⟩ | ⟨-, e⟩ <;> rw [e]
    · exact ⟨_, rfl⟩
    · exact exec_next i s
    · exact finish_next w _

/-- No step stops the machine (R77, R213). -/
theorem step_next (s : State) : ∃ t, step s = .next t := by
  cases hc : coreTurn s with
  | true => exact step_of_coreTurn hc ▸ coreStep_next s
  | false => exact ⟨_, step_of_hostTurn hc⟩

/-- A standing plan answers the push on offer and counts it (R97 `SINKFAIL`). -/
theorem hostStep_of_sink {k : Nat} {b : Byte} (hk : s.sink = some k) (ho : offeredByte s = some b)
    (hr : s.reply = none) (hf : hostFirst s = false) :
    hostStep s = answerPush (if k = 1 then .ioerr else .ok) (s.setSink (some (k - 1))) := by
  simp [hostStep, sinkAnswer, hk, ho, hr, hf]

/-- With no plan, no push to answer, or an eager move, the host makes its next move (R97). -/
theorem hostStep_of_no_sink
    (h : s.sink = none ∨ offeredByte s = none ∨ s.reply ≠ none ∨ hostFirst s = true) :
    hostStep s = hostMove s := by
  rcases hostStep_cases s with ⟨k, b, hk, ho, hr, hf, -⟩ | e
  · simp [hk, ho, hr, hf] at h
  · exact e

end Turns

/-! ### Register words -/

theorem getLsbD_fieldBit (b : Bool) {j : Nat} (hj : j < 32) (k : Nat) :
    (fieldBit b j).getLsbD k = (b && decide (k = j)) := by
  cases b with
  | false => simp [fieldBit]
  | true =>
    have htwo : (BitVec.twoPow 32 j).getLsbD k = _ := BitVec.getLsbD_twoPow j k
    simpa [fieldBit, BitVec.twoPow, hj, eq_comm] using htwo

/-- The bits of STATUS (R25). -/
theorem getLsbD_statusWord (s : State) (k : Nat) : (statusWord s).getLsbD k =
    [s.busy, s.done, s.err, s.rej, s.treeValid, s.codesValid, s.brOpen].getD k false := by
  simp only [statusWord, BitVec.getLsbD_or, getLsbD_fieldBit _ (show 0 < 32 by decide),
    getLsbD_fieldBit _ (show 1 < 32 by decide), getLsbD_fieldBit _ (show 2 < 32 by decide),
    getLsbD_fieldBit _ (show 3 < 32 by decide), getLsbD_fieldBit _ (show 4 < 32 by decide),
    getLsbD_fieldBit _ (show 5 < 32 by decide), getLsbD_fieldBit _ (show 6 < 32 by decide)]
  match k with
  | 0 | 1 | 2 | 3 | 4 | 5 | 6 => simp
  | k + 7 => simp

/-- Releasing an asserted `rst` leaves what a reset leaves (R240, R241). -/
theorem releaseReset_assertReset {s : State} (h : s.rst = false) :
    releaseReset (assertReset s) = hardReset s := by
  simp [releaseReset, assertReset, hardReset, h]

end Sys2Proof.Machine

open Sys2Proof Sys2Proof.Machine

/-- Settles O46. The core's move keeps what holds inside a command until the command ends or waits, and each of the
host's moves keeps the invariant. -/
theorem stepKeepsTheInvariant : Obligations.StepKeepsTheInvariant := by
  unfold Obligations.StepKeepsTheInvariant
  intro s t h hs
  exact step_inv h hs

/-- Settles O22: the leaves weigh TOTAL, and no merge takes weight off the priority structure. -/
theorem rootWeightIsTotal : Obligations.RootWeightIsTotal := by
  unfold Obligations.RootWeightIsTotal
  intro hist h
  obtain ⟨r, l, c, hr, hn⟩ := Tree.ofHist_root_of_occurring h
  exact ⟨r, hr, by rw [hn]; rfl⟩

/-- Settles O47, by what R39 lets each move of the core and of the host do. -/
theorem histogramChangeInvalidates : Obligations.HistogramChangeInvalidates := by
  unfold Obligations.HistogramChangeInvalidates
  intro s t hi hs
  extract_lets runs hostClears
  have hmove : validMove (runs [0x01#8, 0x02#8, 0x04#8] ∨ hostClears) (runs [0x10#8]) s t := by
    cases hc : coreTurn s with
    | true =>
      obtain ⟨-, -, ⟨w, hw⟩, -⟩ := coreTurn_true hc
      exact (coreStep_validMove hi hw (step_of_coreTurn hc ▸ hs)).imp (fun h => .inl ⟨hc, w, hw, h⟩)
        fun h => ⟨hc, w, hw, by simp [h]⟩
    | false =>
      obtain rfl : hostStep s = t := by simpa [step_of_hostTurn hc] using hs
      exact (hostStep_validMove hi).imp (fun h => .inr ⟨hc, h⟩) False.elim
  have hmore {a b : List (BitVec 8)} (hab : a ⊆ b) (h : runs a) : runs b :=
    ⟨h.1, h.2.imp fun _ hw => ⟨hw.1, hab hw.2⟩⟩
  rcases hmove with ⟨ht, hv, hclear⟩ | ⟨hh, ht, hv⟩
  · exact ⟨fun _ => ⟨ht, hv⟩, fun hs _ => hclear hs, fun hs _ =>
      (hclear (hi.codes_tree hs)).imp_left (hmore (by simp))⟩
  · refine ⟨fun h => absurd hh h, fun hs h => absurd (ht hs) (by simp [h]), fun hs h => .inl ?_⟩
    exact hmore (by simp) ((hv hs).resolve_left (by simp [h]))

/-- Settles O45: the state after reset is a reset state. -/
theorem resetMeetsTheInvariant : Obligations.ResetMeetsTheInvariant := inv_hardReset State.reset

/-- Settles O7, by what the host can do in its turn. -/
theorem stepIsCoreOrHostMove : Obligations.StepIsCoreOrHostMove := by
  refine ⟨fun _ => step_of_hostTurn, fun _ => step_of_coreTurn, step_next, fun _ _ => rfl,
    fun s k b hk ho hr hf => ?_, fun _ => hostStep_of_no_sink⟩
  have ho' : offeredByte (s.setSink (some (k - 1))) = some b := ho
  rw [hostStep_of_sink hk ho hr hf]
  split
  next h1 => subst h1; exact answerPush_ioerr ho' hr
  · exact answerPush_ok ho' hr

/-- Settles O51: an accepted word is pending at its start, so the core's turn is its execution. -/
theorem cmdWriteIsAcceptedOrRefused : Obligations.CmdWriteIsAcceptedOrRefused := by
  refine ⟨by decide, fun s w => ?_⟩
  have haccept (hb : s.busy = false) (he : s.err = false) : writeReg .cmd w s =
      { s with pending := some w, progress := .start, busy := true, done := false } := by
    simp [writeReg, writeCmd, hb, he]
  refine ⟨haccept, fun hrst hb he hf i hd => ?_, fun h => ?_, rfl⟩
  · rw [haccept hb he]
    exact step_of_start hrst rfl rfl rfl hf hd
  · have h' : (s.busy || s.err) = true := by simpa using h
    simp [writeReg, writeCmd, h', State.reject]

/-- Settles O52. -/
theorem statusReadsAndClears : Obligations.StatusReadsAndClears :=
  ⟨by decide, fun s v => ⟨getLsbD_statusWord s, writeStatus_eq v s⟩⟩

/-- Settles O53: the soft reset is the hard one with `rst` released. -/
theorem ctrlWriteAndReset : Obligations.CtrlWriteAndReset := by
  refine ⟨by decide, fun s v => ⟨?_, fun h => ?_, fun h => ?_⟩⟩
  · cases hie : s.ie <;> simp [regValue, fieldBit, hie]
  · simp only [writeReg, writeCtrl, h, Bool.false_eq_true, if_false]
  · have ht : writeReg .ctrl v s = hardReset s := if_pos h
    simp only [ht]
    refine ⟨rfl, rfl, rfl, rfl, rfl, rfl, rfl, rfl, rfl, rfl, rfl, rfl, fun b => ?_, rfl, rfl, rfl, rfl, rfl, rfl,
      rfl, rfl, rfl, rfl, rfl, rfl, rfl, fun hrst => (releaseReset_assertReset hrst).symm⟩
    simp [State.histAt, State.reset]
end

section
/-! PROOFS. Waiting (R37, R66, R67): a run of a command's pseudocode beside the run on the same state with more
items and answers at the end of its queues. -/

namespace Sys2Proof.Machine

/-! ### What the host serves -/

/-- Items and answers for the end of a state's queues, with the place the state is put at, which no pseudocode
reads. -/
structure Supply where
  place   : Progress
  items   : List InItem
  answers : List Answer

/-- The state with the supply at the end of its queues. -/
def State.feed (g : Supply) (s : State) : State :=
  { s with progress := g.place, input := s.input ++ g.items, answers := s.answers ++ g.answers }

@[simp] theorem State.feed_input (g : Supply) (s : State) : (s.feed g).input = s.input ++ g.items := rfl
@[simp] theorem State.feed_answers (g : Supply) (s : State) : (s.feed g).answers = s.answers ++ g.answers := rfl
@[simp] theorem State.feed_budget (g : Supply) (s : State) : (s.feed g).budget = s.budget := rfl
@[simp] theorem State.feed_brNleft (g : Supply) (s : State) : (s.feed g).brNleft = s.brNleft := rfl

theorem serve_input (q : List InItem) (a : List Answer) (s : State) :
    serve q a s = serve [] a (s.setInput (s.input ++ q)) := by
  induction q generalizing s with
  | nil => simp [State.setInput]
  | cons it q ih => simpa [serve, perform, State.setInput] using ih (s.setInput (s.input ++ [it]))

/-- With no push on offer, or that one answered, answers queue up (R67). -/
theorem serve_answers {a : List Answer} {s : State} (h : offeredByte s = none ∨ s.reply ≠ none) :
    serve [] a s = { s with answers := s.answers ++ a } := by
  induction a generalizing s with
  | nil => simp [serve]
  | cons x a ih =>
    have hx : answerPush x s = { s with answers := s.answers ++ [x] } := by
      rcases answerPush_cases x s with ⟨b, ho, hr, -⟩ | ⟨-, e⟩
      · simp [ho, hr] at h
      · exact e
    have hnext := ih (s := { s with answers := s.answers ++ [x] }) h
    simpa [serve, perform, hx] using hnext

/-- Serving a command touches the ports and its reply only (R66, R67). -/
theorem serve_state (q : List InItem) (a : List Answer) (s : State) :
    ∃ i r o x, serve q a s = { s with input := i, reply := r, output := o, answers := x } := by
  rw [serve_input]
  generalize hs : s.setInput (s.input ++ q) = u
  suffices h : ∃ r o x, serve [] a u = { u with reply := r, output := o, answers := x } by
    obtain ⟨r, o, x, e⟩ := h
    exact ⟨s.input ++ q, r, o, x, by rw [e, ← hs]; rfl⟩
  clear hs
  induction a generalizing u with
  | nil => exact ⟨u.reply, u.output, u.answers, rfl⟩
  | cons y a ih =>
    obtain ⟨r, o, x, e⟩ := ih (answerPush y u)
    refine ⟨r, o, x, e.trans ?_⟩
    rcases answerPush_cases y u with ⟨b, -, -, ⟨-, e⟩ | ⟨-, e⟩⟩ | ⟨-, e⟩ <;> rw [e]

/-- Outside a Push no byte is on offer. -/
theorem offeredByte_eq_none {s : State} (h : s.progress.inPush = false) : offeredByte s = none := by
  cases ho : offeredByte s with
  | none => rfl
  | some b => exact absurd (inPush_iff_offeredByte.2 ⟨b, ho⟩) (by simp [h])

/-- A command that waits in a Pull is served at the end of its queues. -/
theorem serve_hold_pull {p : Progress} (hp : p.inPush = false) (g : Supply) (s : State) :
    hold g.place (serve g.items g.answers (hold p s)) = s.feed g := by
  rw [serve_input, serve_answers (.inl (offeredByte_eq_none hp))]
  rfl

/-- A push that waits is served as one whose answer was there (R67). -/
theorem takeReply_serve {p : Progress} {b : Byte} {s : State} (ho : offeredByte (hold p s) = some b)
    (hr : s.reply = none) (ha : s.answers = []) (g : Supply) :
    takeReply p (hold g.place (serve g.items g.answers (hold p s))) = pushByte p b (s.feed g) := by
  have hfeed : (s.feed g).answers = g.answers := by simp [ha]
  rw [serve_input]
  cases hg : g.answers with
  | nil =>
    rw [pushByte_nil (hfeed.trans hg)]
    simp [serve, takeReply, hold, State.setInput, State.feed, hr, hg]
  | cons x rest =>
    have hserve (u : State) : serve [] (x :: rest) u = serve [] rest (answerPush x u) := rfl
    have ho' : offeredByte ((hold p s).setInput ((hold p s).input ++ g.items)) = some b := ho
    rw [hserve]
    cases x with
    | ok =>
      rw [pushByte_ok (hfeed.trans hg), answerPush_ok ho' hr, serve_answers (.inr (by simp))]
      simp [takeReply, hold, State.setInput, State.setReply, State.feed, State.deliver, ha, ← hr]
    | ioerr =>
      rw [pushByte_ioerr (hfeed.trans hg), answerPush_ioerr ho' hr, serve_answers (.inr (by simp))]
      simp [takeReply, hold, State.setInput, State.setReply, State.feed, State.deliver, ha, ← hr]

/-! ### Two runs side by side -/

/-- What a command begun in `c` has not touched while it is under way (R37). -/
structure Underway (c s : State) : Prop where
  rst : s.rst = c.rst
  busy : s.busy = c.busy
  done : s.done = c.done
  err : s.err = c.err
  pending : s.pending = c.pending
  reply : s.reply = none

/-- A place to wait at, and its port unserved (R66, R67). -/
structure Unserved (p : Progress) (s : State) : Prop where
  place : p ≠ .start
  pull : p.inPush = false → s.input = []
  push : p.inPush = true → s.answers = []

/-- `r'`, the run on the fed state, beside `r`, the run on the state itself: it ends as `r` does, the supply unused;
where `r` waits at an unserved port, `r'` waits too if nothing is supplied, and, with `k` after it, does what the
command does when it is served there and goes on. -/
def Run.Beside {α : Type} (g : Supply) (c : State) (k : α → State → Run Unit) : Run α → Run α → Prop
  | .ok x u, r' => Underway c u ∧ r' = .ok x (u.feed g)
  | .raised e i u, r' => r' = .raised e i (u.feed g)
  | .held p u, r' =>
    Underway c u ∧ Unserved p u ∧ (g.items = [] → g.answers = [] → r' = .held p (u.feed g)) ∧
      r'.andThen k = resume p (hold g.place (serve g.items g.answers (hold p u)))

section
variable {α β : Type} {g : Supply} {c s : State}

theorem Run.Beside.andThen {r r' : Run α} {f : α → State → Run β} {k : β → State → Run Unit}
    (hr : r.Beside g c (fun x u => (f x u).andThen k) r')
    (hf : ∀ x u, r = .ok x u → Underway c u → (f x u).Beside g c k (f x (u.feed g))) :
    (r.andThen f).Beside g c k (r'.andThen f) := by
  cases r with
  | ok x u =>
    obtain ⟨hu, rfl⟩ := hr
    exact hf x u rfl hu
  | raised e i u =>
    obtain rfl : r' = _ := hr
    rfl
  | held p u =>
    obtain ⟨hu, hw, hagain, hres⟩ := hr
    exact ⟨hu, hw, fun hi ha => by rw [hagain hi ha]; rfl, (Run.andThen_assoc r' f k).trans hres⟩

theorem Run.andThen_done (r : Run Unit) : r.andThen .ok = r := by
  cases r <;> rfl

/-- The last part of a command needs no continuation of its own. -/
theorem Run.Beside.andThen_last {r r' : Run α} {f : α → State → Run Unit} (hr : r.Beside g c f r')
    (hf : ∀ x u, r = .ok x u → Underway c u → (f x u).Beside g c .ok (f x (u.feed g))) :
    (r.andThen f).Beside g c .ok (r'.andThen f) :=
  .andThen (by simpa only [Run.andThen_done] using hr) hf

/-! ### What leaves a command under way -/

theorem Underway.start (hr : s.reply = none) : Underway s s := ⟨rfl, rfl, rfl, rfl, rfl, hr⟩
theorem Underway.setInput (h : Underway c s) (q : List InItem) : Underway c (s.setInput q) := { h with }
theorem Underway.deliver (h : Underway c s) (bs : List Byte) (a : List Answer) : Underway c (s.deliver bs a) :=
  { h with }
theorem Underway.setHist (h : Underway c s) (b : Byte) (v : Word) : Underway c (s.setHist b v) := { h with }
theorem Underway.setWriter (h : Underway c s) (b : Byte) (n : Fin 8) : Underway c (s.setWriter b n) := { h with }
theorem Underway.setReader (h : Underway c s) (b : Byte) (n : Fin 9) : Underway c (s.setReader b n) := { h with }
theorem Underway.openReader (h : Underway c s) : Underway c s.openReader := { h with }
theorem Underway.setBudget (h : Underway c s) (v : Weight) : Underway c (s.setBudget v) := { h with }
theorem Underway.setResult (h : Underway c s) (v : Result) : Underway c (s.setResult v) := { h with }
theorem Underway.invalidate (h : Underway c s) : Underway c s.invalidate := { h with }

/-! ### The ports -/

/-- A wait in a Pull: what is supplied comes to the end of the queue. -/
theorem Underway.beside_pull {p : Progress} {k : α → State → Run Unit} {r' : Run α} (h : Underway c s)
    (hp : p ≠ .start) (hpull : p.inPush = false) (hs : s.input = [])
    (hagain : g.items = [] → r' = .held p (s.feed g)) (hk : r'.andThen k = resume p (s.feed g)) :
    (Run.held p s).Beside g c k r' :=
  ⟨h, ⟨hp, fun _ => hs, by simp [hpull]⟩, fun hi _ => hagain hi, by rw [serve_hold_pull hpull, hk]⟩

theorem pull_beside {p : Progress} {k : InItem → State → Run Unit} (h : Underway c s) (hp : p ≠ .start)
    (hpull : p.inPush = false) (hk : resume p (s.feed g) = (pull p (s.feed g)).andThen k) :
    (pull p s).Beside g c k (pull p (s.feed g)) := by
  rcases pull_cases p s with ⟨hs, e⟩ | ⟨it, q, hs, e⟩ <;> rw [e]
  · exact h.beside_pull hp hpull hs (fun hi => pull_nil (by simp [hs, hi])) hk.symm
  · exact ⟨h.setInput q, pull_cons (by simp [hs])⟩

theorem pushByte_beside {p : Progress} {b : Byte} {k : Unit → State → Run Unit} (h : Underway c s)
    (ho : offeredByte (hold p s) = some b) (hk : ∀ u, resume p u = (takeReply p u).andThen k) :
    (pushByte p b s).Beside g c k (pushByte p b (s.feed g)) := by
  have hp : p.inPush = true := inPush_iff_offeredByte.2 ⟨b, ho⟩
  rcases pushByte_cases p b s with ⟨ha, e⟩ | ⟨rest, ha, e⟩ | ⟨rest, ha, e⟩ <;> rw [e]
  · refine ⟨h, ⟨fun hs => by simp [hs, Progress.inPush] at hp, by simp [hp], fun _ => ha⟩,
      fun _ hg => pushByte_nil (by simp [ha, hg]), ?_⟩
    rw [hk, takeReply_serve ho h.reply ha]
  · exact ⟨h.deliver _ _, pushByte_ok (by simp [ha])⟩
  · exact pushByte_ioerr (by simp [ha])

/-! ### The histogram commands -/

theorem countByte_beside {k : Unit → State → Run Unit} (b : Byte) (h : Underway c s) :
    (countByte b s).Beside g c k (countByte b (s.feed g)) := by
  have hhist : (s.feed g).histAt b = s.histAt b := rfl
  rcases countByte_cases b s with ⟨hs, e⟩ | ⟨hs, e⟩ <;> rw [e]
  · simp [Run.Beside, countByte, hhist, hs]
  · exact ⟨h.setHist _ _, by simp only [countByte, hhist, hs, if_false]; rfl⟩

/-- HCNT's loop goes on from the input queue after each byte (R112). -/
theorem hcntLoop_byte (b : Byte) (q : List InItem) (u : State) :
    hcntLoop (.byte b :: q) u = (countByte b (u.setInput q)).andThen fun _ v => hcntLoop v.input v := by
  rcases countByte_cases b (u.setInput q) with ⟨-, e⟩ | ⟨-, e⟩ <;> rw [hcntLoop, e] <;> rfl

theorem hcntLoop_beside (q : List InItem) (h : Underway c s) (hq : s.input = q) :
    (hcntLoop q s).Beside g c .ok (hcntLoop (q ++ g.items) (s.feed g)) := by
  induction q generalizing s with
  | nil =>
    exact h.beside_pull (by simp) rfl hq (fun hi => by simp [hi, hcntLoop])
      (by rw [Run.andThen_done, resume, State.feed_input, hq])
  | cons it q ih =>
    cases it with
    | eos => exact ⟨h.setInput q, rfl⟩
    | ioerr => rfl
    | byte b =>
      rw [List.cons_append, hcntLoop_byte, hcntLoop_byte]
      refine (countByte_beside b (h.setInput q)).andThen fun _ u hu hw => ?_
      have hin : u.input = q := by
        rcases countByte_cases b (s.setInput q) with ⟨-, e⟩ | ⟨-, e⟩ <;> rw [e] at hu <;> cases hu
        rfl
      rw [State.feed_input, hin]
      exact ih hw hin

theorem frqoutFrom_beside (n : Nat) (hn : n ≤ 1024) (h : Underway c s) :
    (frqoutFrom n s).Beside g c .ok (frqoutFrom n (s.feed g)) := by
  induction n generalizing s with
  | zero => exact ⟨h, rfl⟩
  | succ n ih =>
    refine (pushByte_beside h rfl fun u => ?_).andThen fun _ u _ hu => ih (by omega) hu
    simp only [resume, Run.andThen_done]
    rw [show 1023 - (1023 - n) = n by omega]

theorem storeTableByte_feed (k : Fin 1024) (v : Word) (u : State) :
    storeTableByte k v (u.feed g) = (storeTableByte k v u).feed g := by
  unfold storeTableByte
  split <;> rfl

theorem Underway.storeTableByte (h : Underway c s) (k : Fin 1024) (v : Word) :
    Underway c (storeTableByte k v s) := by
  unfold Machine.storeTableByte
  split
  · exact h.setHist _ _
  · exact h

theorem frqinFrom_beside (n : Nat) (hn : n ≤ 1024) (v : Word) (h : Underway c s) :
    (frqinFrom n v s).Beside g c .ok (frqinFrom n v (s.feed g)) := by
  induction n generalizing v s with
  | zero => exact ⟨h, rfl⟩
  | succ n ih =>
    refine (pull_beside h (by simp) rfl ?_).andThen fun it u _ hu => ?_
    · simp only [resume, Run.andThen_done]
      rw [show Config.tableBytes - (1023 - n) = n + 1 by simp only [Config.tableBytes]; omega]
      rfl
    · cases it with
      | eos => rfl
      | ioerr => rfl
      | byte b =>
        simp only [storeTableByte_feed]
        exact ih (by omega) _ (hu.storeTableByte _ _)

/-! ### The BitWriter -/

/-- What follows the bits of one symbol: in ENC the next item, else nothing (R152, R157). -/
def nextSymbol (stream : Bool) (_ : Unit) (s : State) : Run Unit :=
  if stream then encLoop s.input s else .ok () s

theorem writeBit_beside (stream : Bool) (rest : List Bool) (b : Bool) (h : Underway c s) :
    (writeBit stream rest b s).Beside g c (fun _ u => (writeBits stream rest u).andThen (nextSymbol stream))
      (writeBit stream rest b (s.feed g)) := by
  by_cases hn : s.bwNbits.val + 1 < 8
  · have e (u : State) (hu : u.bwNbits.val + 1 < 8) : writeBit stream rest b u =
        .ok () (u.setWriter (shiftIn u.bwAcc b) ⟨u.bwNbits.val + 1, hu⟩) := by simp [writeBit, hu]
    rw [e s hn, e (s.feed g) hn]
    exact ⟨h.setWriter _ _, rfl⟩
  · have e (u : State) (hu : ¬u.bwNbits.val + 1 < 8) : writeBit stream rest b u =
        pushByte (.write stream (shiftIn u.bwAcc b) rest) (shiftIn u.bwAcc b) (u.setWriter 0#8 0) := by
      simp [writeBit, hu]
    rw [e s hn, e (s.feed g) hn]
    exact pushByte_beside (h.setWriter 0#8 0) rfl fun _ => rfl

theorem writeBits_beside (stream : Bool) (bits : List Bool) (h : Underway c s) :
    (writeBits stream bits s).Beside g c (nextSymbol stream) (writeBits stream bits (s.feed g)) := by
  induction bits generalizing s with
  | nil => exact ⟨h, rfl⟩
  | cons b bits ih => exact (writeBit_beside stream bits b h).andThen fun _ _ _ hu => ih hu

theorem closeWriter_beside (h : Underway c s) :
    (closeWriter s).Beside g c .ok (closeWriter (s.feed g)) := by
  by_cases hn : s.bwNbits = 0
  · have e (u : State) (hu : u.bwNbits = 0) : closeWriter u = .ok () u := if_pos hu
    rw [e s hn, e (s.feed g) hn]
    exact ⟨h, rfl⟩
  · have e (u : State) (hu : u.bwNbits ≠ 0) : closeWriter u = pushByte
        (.close (padByte u.bwAcc u.bwNbits)) (padByte u.bwAcc u.bwNbits) (u.setWriter 0#8 0) := if_neg hu
    rw [e s hn, e (s.feed g) hn]
    exact pushByte_beside (h.setWriter 0#8 0) rfl fun u => (Run.andThen_done _).symm

theorem encodeSymbol_beside (stream : Bool) (sym : Byte) (h : Underway c s) :
    (encodeSymbol stream sym s).Beside g c (nextSymbol stream) (encodeSymbol stream sym (s.feed g)) := by
  have hcode : (s.feed g).codeAt sym = s.codeAt sym := rfl
  unfold encodeSymbol
  rw [hcode]
  split
  · rfl
  · exact writeBits_beside stream _ h

/-- ENC's loop goes on from the input queue after each symbol (R157). -/
theorem encLoop_byte {b : Byte} {q : List InItem} (u : State) :
    encLoop (.byte b :: q) u = (encodeSymbol true b (u.setInput q)).andThen (nextSymbol true) := by
  obtain ⟨x, n, o, a, e⟩ := encodeSymbol_state true b (u.setInput q)
  rw [encLoop]
  cases hr : encodeSymbol true b (u.setInput q) with
  | ok y t =>
    rw [hr] at e
    obtain rfl : t = _ := e
    rfl
  | raised => rfl
  | held => rfl

theorem encLoop_beside (q : List InItem) (h : Underway c s) (hq : s.input = q) :
    (encLoop q s).Beside g c .ok (encLoop (q ++ g.items) (s.feed g)) := by
  induction q generalizing s with
  | nil =>
    exact h.beside_pull (by simp) rfl hq (fun hi => by simp [hi, encLoop])
      (by rw [Run.andThen_done, resume, State.feed_input, hq])
  | cons it q ih =>
    cases it with
    | eos => exact ⟨h.setInput q, rfl⟩
    | ioerr => rfl
    | byte b =>
      have hfed : (s.feed g).setInput (q ++ g.items) = (s.setInput q).feed g := rfl
      rw [List.cons_append, encLoop_byte, encLoop_byte, hfed]
      refine (encodeSymbol_beside true b (h.setInput q)).andThen_last fun _ u hu hw => ?_
      obtain ⟨x, n, o, a, e⟩ := encodeSymbol_state true b (s.setInput q)
      rw [hu] at e
      obtain rfl : u = _ := e
      exact ih hw rfl

/-! ### The BitReader -/

/-- The bit of a fresh item (R170). -/
def bitOfItem : InItem → State → Run (Option Bool)
  | .eos, s => .raised .corruptBody (s.budget.extractLsb' 0 32) s
  | .ioerr, s => .raised .underlyingIo 0#32 s
  | .byte v, s => takeBit (s.setReader v 8)

/-- With no bit held, ReadBit begins with its Pull (R170). -/
theorem readBit_fresh (p : Progress) (hb : s.budget ≠ 0#40) (hn : s.brNleft = 0) :
    readBit p s = (pull p s).andThen bitOfItem := by
  simp only [readBit, hb, hn, if_false, if_true]
  congr
  funext it u
  cases it <;> rfl

/-- With a bit held, ReadBit takes it (R170). -/
theorem readBit_held (p : Progress) (hb : s.budget ≠ 0#40) (hn : s.brNleft ≠ 0) : readBit p s = takeBit s := by
  simp [readBit, hb, hn]

theorem takeBit_beside {k : Option Bool → State → Run Unit} (h : Underway c s) :
    (takeBit s).Beside g c k (takeBit (s.feed g)) := ⟨h.setReader _ _, rfl⟩

theorem readBit_beside {p : Progress} {k : Option Bool → State → Run Unit} (h : Underway c s) (hp : p ≠ .start)
    (hpull : p.inPush = false) (hk : ∀ u, resume p u = (readBit p u).andThen k) :
    (readBit p s).Beside g c k (readBit p (s.feed g)) := by
  by_cases hb : s.budget = 0#40
  · have e (u : State) (hu : u.budget = 0#40) : readBit p u = .ok none u := if_pos hu
    rw [e s hb, e (s.feed g) hb]
    exact ⟨h, rfl⟩
  by_cases hn : s.brNleft = 0
  · have e := readBit_fresh (s := s.feed g) p hb hn
    rw [readBit_fresh p hb hn, e]
    refine (pull_beside h hp hpull ?_).andThen fun it u _ hu => ?_
    · rw [hk, e, Run.andThen_assoc]
    · cases it with
      | eos => rfl
      | ioerr => rfl
      | byte v => exact takeBit_beside (hu.setReader v 8)
  · rw [readBit_held p hb hn, readBit_held (s := s.feed g) p hb hn]
    exact takeBit_beside h

theorem brbitBody_beside (h : Underway c s) :
    (brbitBody s).Beside g c .ok (brbitBody (s.feed g)) :=
  (readBit_beside h (by simp) rfl fun _ => rfl).andThen fun _ _ _ hu => ⟨hu.setResult _, rfl⟩

theorem symbolConsumed_beside {k : Unit → State → Run Unit} (w : Word) (h : Underway c s) :
    (symbolConsumed w s).Beside g c k (symbolConsumed w (s.feed g)) := by
  rcases symbolConsumed_cases w s with ⟨hb, e⟩ | ⟨hb, e⟩ <;> rw [e]
  · simp [Run.Beside, symbolConsumed, hb]
  · exact ⟨h.setBudget _, by simp only [symbolConsumed, State.feed_budget, hb, if_false]; rfl⟩

theorem countSymbol_beside {k : Option Byte → State → Run Unit} (d : DecodeCmd) (sym : Byte) (h : Underway c s) :
    (countSymbol d sym s).Beside g c k (countSymbol d sym (s.feed g)) :=
  (symbolConsumed_beside _ h).andThen fun _ _ _ hu => ⟨hu, rfl⟩

theorem emitSymbol_beside (d : DecodeCmd) (sym : Byte) (h : Underway c s) :
    (emitSymbol d sym s).Beside g c (afterSymbol d) (emitSymbol d sym (s.feed g)) :=
  (pushByte_beside h rfl fun _ => rfl).andThen fun _ _ _ hu => countSymbol_beside d sym hu

/-! ### The tree walk (R172) -/

/-- One step of the tree walk from `cur`, the next bit read (R172). -/
def walkStep (d : DecodeCmd) (cur : NodeIx) : Option Bool → State → Run (Option Byte)
  | none, s => .ok none s
  | some bit, s =>
    match (s.tree.nodeAt cur).child bit with
    | none => .raised .missingChild (BitVec.ofNat 32 cur.val) s
    | some nxt =>
      match s.tree.nodeAt nxt with
      | .leaf sym _ => emitSymbol d sym s
      | .internal _ _ _ => walkFrom d nxt s

/-- What a bit read leaves: with a budget there is one bit less before the next wait (R170). -/
theorem readBit_ok {p : Progress} {r : Option Bool} {u : State} (h : readBit p s = .ok r u) :
    (s.budget = 0#40 ∧ r = none ∧ u = s) ∨
      (∃ bit, r = some bit ∧ bitsQueued u + 1 = bitsQueued s ∧ u.budget = s.budget) := by
  rcases readBit_cases p s with ⟨hb, e⟩ | ⟨-, hn, e⟩ | ⟨-, -, -, e⟩ | ⟨q, -, -, -, e⟩ |
    ⟨q, -, -, -, e⟩ | ⟨v, q, -, hn, hi, e⟩ <;> rw [e] at h <;> cases h
  · exact .inl ⟨hb, rfl, rfl⟩
  · have hpos : s.brNleft.val ≠ 0 := fun h0 => hn (Fin.ext h0)
    exact .inr ⟨_, rfl, by simp [bitsQueued]; omega, rfl⟩
  · exact .inr ⟨_, rfl, by simp [bitsQueued, hn, hi]; omega, rfl⟩

/-- The walk is one step after another; its bound on the rounds is never the reason it ends (R172). -/
theorem walkFrom_eq (d : DecodeCmd) (cur : NodeIx) (s : State) :
    walkFrom d cur s = (readBit (.walk d cur) s).andThen (walkStep d cur) := by
  rw [walkFrom, walkTree]
  cases h : readBit (.walk d cur) s with
  | ok r u =>
    rcases readBit_ok h with ⟨-, rfl, -⟩ | ⟨bit, rfl, hbits, -⟩
    · rfl
    · rw [← hbits]
      rfl
  | raised => rfl
  | held => rfl

theorem resume_walk (d : DecodeCmd) (cur : NodeIx) (s : State) : resume (.walk d cur) s =
    (readBit (.walk d cur) s).andThen fun r u => (walkStep d cur r u).andThen (afterSymbol d) := by
  rw [resume, walkFrom_eq, Run.andThen_assoc]

theorem walkFrom_beside (d : DecodeCmd) (cur : NodeIx) (h : Underway c s) :
    (walkFrom d cur s).Beside g c (afterSymbol d) (walkFrom d cur (s.feed g)) := by
  induction hn : bitsQueued s using Nat.strong_induction_on generalizing cur s with
  | _ n ih =>
    rw [walkFrom_eq, walkFrom_eq]
    refine (readBit_beside h (by simp) rfl (resume_walk d cur)).andThen fun r u hr hu => ?_
    rcases readBit_ok hr with ⟨-, rfl, -⟩ | ⟨bit, rfl, hbits, -⟩
    · exact ⟨hu, rfl⟩
    · have htree : (u.feed g).tree = u.tree := rfl
      simp only [walkStep, htree]
      split
      · rfl
      · split
        · exact emitSymbol_beside d _ hu
        · exact ih (bitsQueued u) (by omega) _ hu rfl

theorem decodeSymbol_beside (d : DecodeCmd) (h : Underway c s) :
    (decodeSymbol d s).Beside g c (afterSymbol d) (decodeSymbol d (s.feed g)) := by
  have htree : (s.feed g).tree = s.tree := rfl
  simp only [decodeSymbol, htree, State.feed_budget]
  split
  · exact ⟨h, rfl⟩
  · split
    · rfl
    · exact walkFrom_beside d _ h

/-! ### DEC's loop (R184) -/

theorem Run.andThen_eq_ok {r : Run α} {f : α → State → Run β} {y : β} {u : State}
    (h : r.andThen f = .ok y u) : ∃ x v, r = .ok x v ∧ f x v = .ok y u := by
  cases r with
  | ok x v => exact ⟨x, v, rfl, h⟩
  | raised => cases h
  | held => cases h

theorem budget_sub_one {v : Weight} (hv : v ≠ 0#40) : (v - 1#40).toNat + 1 = v.toNat := by
  bv_omega

theorem emitSymbol_ok {d : DecodeCmd} {sym : Byte} {r : Option Byte} {u : State}
    (h : emitSymbol d sym s = .ok r u) : u.budget.toNat + 1 = s.budget.toNat := by
  obtain ⟨_, v, hpush, h⟩ := Run.andThen_eq_ok h
  obtain ⟨_, w, hcount, h⟩ := Run.andThen_eq_ok h
  have hv : v.budget = s.budget := by
    obtain ⟨o, a, e⟩ := pushByte_state (.emit d sym) sym s
    rw [hpush] at e
    obtain rfl : v = _ := e
    rfl
  rcases symbolConsumed_cases d.word v with ⟨-, e⟩ | ⟨hb, e⟩ <;> rw [e] at hcount <;> cases hcount
  cases h
  rw [State.setBudget_budget, budget_sub_one hb, hv]

theorem walkFrom_ok {d : DecodeCmd} {cur : NodeIx} {r : Option Byte} {u : State} (hb : s.budget ≠ 0#40)
    (h : walkFrom d cur s = .ok r u) : u.budget.toNat + 1 = s.budget.toNat := by
  induction hn : bitsQueued s using Nat.strong_induction_on generalizing cur s with
  | _ n ih =>
    rw [walkFrom_eq] at h
    obtain ⟨x, v, hr, h⟩ := Run.andThen_eq_ok h
    rcases readBit_ok hr with ⟨h0, -, -⟩ | ⟨bit, rfl, hbits, hv⟩
    · exact absurd h0 hb
    · rw [← hv]
      simp only [walkStep] at h
      split at h
      · cases h
      · split at h
        · exact emitSymbol_ok h
        · exact ih (bitsQueued v) (by omega) (hv ▸ hb) h rfl

/-- A symbol decoded takes one off BUDGET (R171, R172). -/
theorem decodeSymbol_ok {d : DecodeCmd} {r : Option Byte} {u : State} (hb : s.budget ≠ 0#40)
    (h : decodeSymbol d s = .ok r u) : u.budget.toNat + 1 = s.budget.toNat := by
  rw [decodeSymbol, if_neg hb] at h
  split at h
  · cases h
  · exact walkFrom_ok hb h

/-- DEC's loop on the budget left is a symbol and then the loop again (R184). -/
theorem decLoop_eq (hb : s.budget ≠ 0#40) :
    decLoop s.budget.toNat s = (decodeSymbol .dec s).andThen (afterSymbol .dec) := by
  rw [← budget_sub_one hb, decLoop]
  cases h : decodeSymbol .dec s with
  | ok r u =>
    have hu := decodeSymbol_ok hb h
    rw [← budget_sub_one hb] at hu
    simp only [Run.andThen_ok, afterSymbol, show u.budget.toNat = (s.budget - 1#40).toNat by omega]
  | raised => rfl
  | held => rfl

theorem decLoop_beside (h : Underway c s) :
    (decLoop s.budget.toNat s).Beside g c .ok (decLoop s.budget.toNat (s.feed g)) := by
  induction hn : s.budget.toNat generalizing s with
  | zero => exact ⟨h.setResult _, rfl⟩
  | succ n ih =>
    have hb : s.budget ≠ 0#40 := fun h0 => by simp [h0] at hn
    have e := decLoop_eq (s := s.feed g) hb
    rw [State.feed_budget] at e
    rw [← hn, decLoop_eq hb, e]
    refine (decodeSymbol_beside .dec h).andThen_last fun r u hr hu => ?_
    have hleft := decodeSymbol_ok hb hr
    have := ih hu (by omega)
    simpa only [afterSymbol, State.feed_budget, show u.budget.toNat = n by omega] using this

theorem iskipLoop_beside (q : List InItem) (h : Underway c s) (hq : s.input = q) :
    (iskipLoop q s).Beside g c .ok (iskipLoop (q ++ g.items) (s.feed g)) := by
  induction q generalizing s with
  | nil =>
    exact h.beside_pull (by simp) rfl hq (fun hi => by simp [hi, iskipLoop])
      (by rw [Run.andThen_done, resume, State.feed_input, hq])
  | cons it q ih =>
    cases it with
    | eos => exact ⟨h.setInput q, rfl⟩
    | ioerr => rfl
    | byte b => exact ih (h.setInput q) rfl

/-! ### A command from its start -/

theorem checked_beside {k : Unit → State → Run Unit} {b : Bool} {r r' : Run Unit} {e : ErrCode} {v : Word}
    (h : r.Beside g c k r') :
    (if b then r else .raised e v s).Beside g c k (if b then r' else .raised e v (s.feed g)) := by
  split
  · exact h
  · rfl

end

/-- Every command beside itself on the fed state (R94). -/
theorem exec_beside (i : Instr) : ∃ f : State → Run Unit, (∀ s, exec i s = finish (encode i) (f s)) ∧
    ∀ (g : Supply) (s : State), s.reply = none → (f s).Beside g s .ok (f (s.feed g)) := by
  cases i with
  | nop => exact ⟨fun s => .ok () s, fun _ => rfl, fun _ _ hr => ⟨.start hr, rfl⟩⟩
  | hclr =>
    exact ⟨fun s => .ok () { s.invalidate with hist := Vector.replicate 256 0#32 }, fun _ => rfl,
      fun _ _ hr => ⟨{ Underway.start hr with }, rfl⟩⟩
  | hcnt => exact ⟨_, fun _ => rfl, fun _ _ hr => hcntLoop_beside _ (.invalidate (.start hr)) rfl⟩
  | frqout => exact ⟨_, fun _ => rfl, fun _ _ hr => frqoutFrom_beside _ le_rfl (.start hr)⟩
  | frqin => exact ⟨_, fun _ => rfl, fun _ _ hr => frqinFrom_beside _ le_rfl _ (.invalidate (.start hr))⟩
  | build =>
    exact ⟨fun s => .ok () { s with codesValid := false, tree := Tree.ofHist s.hist, treeValid := true },
      fun _ => rfl, fun _ _ hr => ⟨{ Underway.start hr with }, rfl⟩⟩
  | gencodes =>
    exact ⟨_, fun _ => rfl, fun _ s hr => checked_beside (b := s.treeValid)
      (r := .ok () { s with code := codesOf s.tree, codesValid := true }) ⟨{ Underway.start hr with }, rfl⟩⟩
  | bwbit val => exact ⟨_, fun _ => rfl, fun _ _ hr => checked_beside (writeBits_beside false _ (.start hr))⟩
  | bwcode len bits =>
    exact ⟨_, fun _ => rfl, fun _ _ hr => checked_beside (writeBits_beside false _ (.start hr))⟩
  | bwclose => exact ⟨_, fun _ => rfl, fun _ _ hr => closeWriter_beside (.start hr)⟩
  | encb sym =>
    exact ⟨_, fun _ => rfl, fun _ s hr => checked_beside (b := s.codesValid)
      (encodeSymbol_beside false sym (.start hr))⟩
  | enc =>
    exact ⟨_, fun _ => rfl, fun _ s hr => checked_beside (b := s.codesValid) (encLoop_beside _ (.start hr) rfl)⟩
  | bropen =>
    exact ⟨fun s => .ok () s.openReader, fun _ => rfl, fun _ _ hr => ⟨.openReader (.start hr), rfl⟩⟩
  | brbit =>
    exact ⟨_, fun _ => rfl, fun _ s hr => checked_beside (b := s.brOpen) (brbitBody_beside (.start hr))⟩
  | brsym =>
    exact ⟨_, fun _ => rfl, fun _ s hr => checked_beside (b := s.brOpen) (symbolConsumed_beside _ (.start hr))⟩
  | decsym =>
    exact ⟨_, fun _ => rfl, fun _ s hr => checked_beside (b := s.treeValid) (checked_beside (b := s.brOpen)
      ((decodeSymbol_beside .decsym (.start hr)).andThen_last fun _ _ _ hu => ⟨hu.setResult _, rfl⟩))⟩
  | dec =>
    exact ⟨_, fun _ => rfl, fun _ s hr => checked_beside (b := s.treeValid)
      (decLoop_beside (.openReader (.setBudget (.start hr) s.tree.total)))⟩
  | iskip => exact ⟨_, fun _ => rfl, fun _ _ hr => iskipLoop_beside _ (.start hr) rfl⟩

/-- No command reads the place it is begun at. -/
theorem exec_place (i : Instr) (p : Progress) {s : State} (hr : s.reply = none) :
    exec i { s with progress := p } = exec i s := by
  obtain ⟨f, hf, hb⟩ := exec_beside i
  have hfeed (u : State) : u.feed ⟨p, [], []⟩ = { u with progress := p } := by simp [State.feed]
  have h := hb ⟨p, [], []⟩ s hr
  rw [hfeed] at h
  rw [hf, hf]
  cases hs : f s <;> rw [hs] at h
  case ok x u => rw [h.2, hfeed]; rfl
  case raised e x u => rw [show f _ = _ from h, hfeed]; rfl
  case held q u =>
    obtain ⟨-, -, hagain, -⟩ := h
    rw [hagain rfl rfl, hfeed]
    rfl

/-- A command that has not ended waits at an unserved port; served there, it goes on as if it had been served from
its start. -/
theorem exec_waits {i : Instr} {s t : State} (hr : s.reply = none) (h : exec i s = .next t)
    (ht : t.busy = true ∨ t.progress ≠ .start) :
    ∃ p u, t = hold p u ∧ Underway s u ∧ Unserved p u ∧
      ∀ q a, finish (encode i) (resume p (serve q a t)) =
        exec i { s with input := s.input ++ q, answers := s.answers ++ a } := by
  obtain ⟨f, hf, hb⟩ := exec_beside i
  rcases finish_cases (hf s ▸ h) with ⟨u, -, rfl⟩ | ⟨e, x, u, -, rfl⟩ | ⟨p, u, hs, rfl⟩
  · simp at ht
  · simp at ht
  · have hg (g : Supply) := hb g s hr
    rw [hs] at hg
    obtain ⟨hu, hp, -, -⟩ := hg ⟨p, [], []⟩
    refine ⟨p, u, rfl, hu, hp, fun q a => ?_⟩
    obtain ⟨-, -, -, hres⟩ := hg ⟨p, q, a⟩
    have hplace : hold p (serve q a (hold p u)) = serve q a (hold p u) := by
      obtain ⟨_, _, _, _, e⟩ := serve_state q a (hold p u)
      rw [e]; rfl
    rw [Run.andThen_done, hplace] at hres
    rw [← exec_place i p (s := { s with input := s.input ++ q, answers := s.answers ++ a }) hr, hf]
    exact congrArg _ hres.symm

/-- A command that waits goes on from its place (R37). -/
theorem coreStep_of_waiting {w : Word} {s : State} (hw : s.pending = some w) (hp : s.progress ≠ .start) :
    coreStep s = finish w (resume s.progress s) := by
  rcases coreStep_cases hw with ⟨c, -, hs, -⟩ | ⟨i, hs, -, -⟩ | ⟨-, e⟩
  · exact absurd hs hp
  · exact absurd hs hp
  · exact e

end Sys2Proof.Machine

open Sys2Proof Sys2Proof.Machine

/-- Settles O49: every command beside itself on the fed state. -/
theorem waitingIsTransparent : Obligations.WaitingIsTransparent := by
  unfold Obligations.WaitingIsTransparent
  intro i s t q a _ hr hw h hb
  obtain ⟨p, u, rfl, hu, hp, hres⟩ := exec_waits hr h (.inl hb)
  rw [← hres]
  obtain ⟨_, _, _, _, e⟩ := serve_state q a (hold p u)
  have hpend : (serve q a (hold p u)).pending = some (encode i) := by rw [e]; exact hu.pending.trans hw
  have hplace : (serve q a (hold p u)).progress = p := by rw [e]; rfl
  rw [coreStep_of_waiting hpend (by rw [hplace]; exact hp.place), hplace]

end

section
/-! PROOFS. Where a command first waits, and how it is held there and let go (R37, R66, R67). -/

namespace Sys2Proof.Machine

/-- The run waits at a port. -/
def Run.Waits {α : Type} (r : Run α) : Prop := ∃ p u, p ≠ .start ∧ r = .held p u

section
variable {α β : Type} {s : State}

theorem Run.Waits.andThen {r : Run α} (h : r.Waits) (f : α → State → Run β) : (r.andThen f).Waits := by
  obtain ⟨p, u, hp, rfl⟩ := h
  exact ⟨p, u, hp, rfl⟩

theorem finish_of_waits {r : Run Unit} (h : r.Waits) (w : Word) :
    ∃ t, finish w r = .next t ∧ t.progress ≠ .start := by
  obtain ⟨p, u, hp, rfl⟩ := h
  exact ⟨_, rfl, hp⟩

theorem pull_waits {p : Progress} (hp : p ≠ .start) (h : s.input = []) : (pull p s).Waits :=
  ⟨p, s, hp, pull_nil h⟩

theorem pushByte_waits {p : Progress} (hp : p ≠ .start) (b : Byte) (h : s.answers = []) :
    (pushByte p b s).Waits :=
  ⟨p, s, hp, pushByte_nil h⟩

/-! ### Where each command first waits -/

/-- Bits that complete a byte wait in its push (R150). -/
theorem writeBits_waits (stream : Bool) (bits : List Bool) (ha : s.answers = [])
    (h : 8 ≤ s.bwNbits.val + bits.length) : (writeBits stream bits s).Waits := by
  induction bits generalizing s with
  | nil => have := s.bwNbits.isLt; simp at h; omega
  | cons b bits ih =>
    rw [writeBits]
    rcases writeBit_cases stream bits b s with ⟨hn, e⟩ | ⟨-, e⟩ <;> rw [e]
    · exact ih ha (by simp only [List.length_cons, State.setWriter_bwNbits] at h ⊢; omega)
    · exact Run.Waits.andThen (pushByte_waits (s := s.setWriter 0#8 0) (by simp) _ ha) _

theorem readBit_waits {p : Progress} (hp : p ≠ .start) (hb : s.budget ≠ 0#40) (hn : s.brNleft = 0)
    (hi : s.input = []) : (readBit p s).Waits :=
  readBit_fresh p hb hn ▸ (pull_waits hp hi).andThen _

/-- ReadBit takes the first of the bits the reader holds (R36, R170). -/
theorem takeBit_readerBits {n : Nat} (hn : s.brNleft.val = n + 1) : ∃ bit u,
    takeBit s = .ok (some bit) u ∧ readerBits s = bit :: readerBits u ∧ u.brNleft.val = n ∧
      ∃ b m, u = s.setReader b m := by
  refine ⟨_, _, rfl, ?_, by simp [hn], _, _, rfl⟩
  simp [readerBits, hn, List.range_succ_eq_map, Function.comp_def, Nat.sub_sub, Nat.add_comm]

/-- The bits the reader holds lead the walk to a leaf, whose symbol no answer awaits, or to an inner node, with no
item to read on from (R172). -/
def walkMeetsUnserved (s : State) (cur : NodeIx) : Prop :=
  (s.answers = [] ∧ s.tree.readSymbol cur (readerBits s) ≠ none) ∨
    (s.input = [] ∧ s.tree.descend cur (readerBits s) ≠ none)

theorem walkFrom_waits (d : DecodeCmd) (cur : NodeIx) (hb : s.budget ≠ 0#40) (h : walkMeetsUnserved s cur) :
    (walkFrom d cur s).Waits := by
  induction hn : s.brNleft.val generalizing cur s with
  | zero =>
    have hbits : readerBits s = [] := by simp [readerBits, hn]
    have hi : s.input = [] := by simpa [walkMeetsUnserved, hbits, Tree.readSymbol, Tree.descend] using h
    exact walkFrom_eq d cur s ▸ (readBit_waits (by simp) hb (Fin.ext hn) hi).andThen _
  | succ n ih =>
    obtain ⟨bit, u, htake, hbits, hleft, b, m, rfl⟩ := takeBit_readerBits hn
    have hheld : s.brNleft ≠ 0 := fun h0 => by simp [h0] at hn
    rw [walkFrom_eq, readBit_held _ hb hheld, htake, Run.andThen_ok]
    simp only [walkMeetsUnserved, hbits, Tree.readSymbol, Tree.descend] at h
    simp only [walkStep, State.setReader_tree]
    split
    next hc => simp [hc] at h
    next nxt hc =>
      rw [hc] at h
      dsimp only at h
      split
      next sym w hl =>
        have ha : s.answers = [] := by simpa [hl] using h
        exact Run.Waits.andThen (pushByte_waits (s := s.setReader b m) (by simp) _ ha) _
      next hl =>
        rw [hl] at h
        exact ih nxt hb h hleft

theorem decodeSymbol_waits (d : DecodeCmd) {r : NodeIx} (hb : s.budget ≠ 0#40) (hr : s.tree.root = some r)
    (h : walkMeetsUnserved s r) : (decodeSymbol d s).Waits := by
  simp only [decodeSymbol, hb, hr, if_false]
  exact walkFrom_waits d r hb h

/-- A command whose first Pull or Push finds its port unserved waits there (R66, R67). -/
theorem exec_waits_of_unserved {i : Instr} (h : meetsUnservedPort i s) :
    ∃ t, exec i s = .next t ∧ t.progress ≠ .start := by
  cases i with
  | nop | hclr | build | gencodes | bropen | brsym => exact h.elim
  | hcnt =>
    have hi : s.invalidate.input = [] := h
    exact finish_of_waits ⟨.hcnt, _, by simp, by rw [hi]; rfl⟩ _
  | frqout => exact finish_of_waits ((pushByte_waits (by simp) _ h).andThen _) _
  | frqin => exact finish_of_waits ((pull_waits (s := s.invalidate) (by simp) h).andThen _) _
  | bwbit val =>
    obtain ⟨hv, hn, ha⟩ := h
    have hwf : (Instr.bwbit val).wf = true := by
      have : val = 0#8 ∨ val = 1#8 := by bv_omega
      simpa [Instr.wf] using this
    simp only [exec, execBwbit, hwf, if_true]
    exact finish_of_waits (writeBits_waits false _ ha (by simp [hn])) _
  | bwcode len bits =>
    obtain ⟨hl, hbits, hn, ha⟩ := h
    have hwf : (Instr.bwcode len bits).wf = true := by simp [Instr.wf, hl, hbits]
    simp only [exec, execBwcode, hwf, if_true]
    exact finish_of_waits (writeBits_waits false _ ha (by simpa [codeOperand] using hn)) _
  | bwclose =>
    obtain ⟨hn, ha⟩ := h
    simp only [exec, execBwclose, closeWriter, hn, if_false]
    exact finish_of_waits (pushByte_waits (s := s.setWriter 0#8 0) (by simp) _ ha) _
  | encb sym =>
    obtain ⟨hv, hc, hn, ha⟩ := h
    simp only [exec, execEncb, encodeSymbol, hv, hc, if_true, if_false]
    exact finish_of_waits (writeBits_waits false _ ha hn) _
  | enc =>
    obtain ⟨hv, hi⟩ := h
    simp only [exec, execEnc, hv, hi, if_true]
    exact finish_of_waits ⟨.enc, s, by simp, rfl⟩ _
  | brbit =>
    obtain ⟨ho, hb, hn, hi⟩ := h
    simp only [exec, execBrbit, ho, if_true]
    exact finish_of_waits ((readBit_waits (by simp) hb hn hi).andThen _) _
  | decsym =>
    obtain ⟨ht, ho, hb, r, hr, h⟩ := h
    simp only [exec, execDecsym, ht, ho, if_true]
    exact finish_of_waits ((decodeSymbol_waits .decsym hb hr h).andThen _) _
  | dec =>
    obtain ⟨ht, hb, hroot, hi⟩ := h
    obtain ⟨r, hr⟩ := Option.ne_none_iff_exists'.1 hroot
    simp only [exec, execDec, ht, if_true]
    have hmeets : walkMeetsUnserved (s.setBudget s.tree.total).openReader r :=
      .inr ⟨hi, by simp [readerBits, Tree.descend]⟩
    have hloop := decLoop_eq (s := (s.setBudget s.tree.total).openReader) hb
    have hsym := decodeSymbol_waits (s := (s.setBudget s.tree.total).openReader) .dec hb hr hmeets
    exact finish_of_waits (hloop ▸ hsym.andThen _) _
  | iskip =>
    have hi : s.input = [] := h
    exact finish_of_waits ⟨.iskip, s, by simp, by rw [hi]; rfl⟩ _

/-! ### Held and let go -/

theorem portReady_of_pull (hp : s.progress ≠ .start) (hpull : s.progress.inPush = false) :
    portReady s = !s.input.isEmpty := by
  cases hs : s.progress <;> simp_all [portReady, Progress.inPush]

theorem portReady_of_push (hpush : s.progress.inPush = true) : portReady s = s.reply.isSome := by
  cases hs : s.progress <;> simp_all [portReady, Progress.inPush]

/-- At an unserved port the core cannot move (R37). -/
theorem Unserved.portReady {p : Progress} (h : Unserved p s) (hr : s.reply = none) :
    portReady (hold p s) = false := by
  cases hp : p.inPush with
  | true => rw [portReady_of_push (by exact hp)]; simp [hr]
  | false => rw [portReady_of_pull (by exact h.place) (by exact hp)]; simp [h.pull hp]

/-- An answer to the push on offer lets the core go on (R67). -/
theorem portReady_answer (hpush : s.progress.inPush = true) (hr : s.reply = none) (a : Answer) :
    portReady (serve [] [a] s) = true := by
  obtain ⟨b, ho⟩ := inPush_iff_offeredByte.1 hpush
  have hserve : serve [] [a] s = answerPush a s := rfl
  rcases answerPush_cases a s with ⟨_, -, -, ⟨-, e⟩ | ⟨-, e⟩⟩ | ⟨hn, -⟩
  · rw [hserve, e, portReady_of_push (by exact hpush)]; rfl
  · rw [hserve, e, portReady_of_push (by exact hpush)]; rfl
  · simp [ho, hr] at hn

/-- An item presented lets a Pull go on (R66). -/
theorem portReady_present (hp : s.progress ≠ .start) (hpull : s.progress.inPush = false) (it : InItem) :
    portReady (serve [it] [] s) = true := by
  have hserve : serve [it] [] s = s.setInput (s.input ++ [it]) := rfl
  rw [hserve, portReady_of_pull (by exact hp) (by exact hpull)]
  simp

/-- A command served at its port is the core's to go on with, unless `rst` is asserted (R37, R240). -/
theorem coreReady_serve {w : Word} {q : List InItem} {a : List Answer} (hrst : s.rst = false) (hb : s.busy = true)
    (hw : s.pending = some w) (hready : portReady (serve q a s) = true) : coreReady (serve q a s) = true := by
  obtain ⟨_, _, _, _, e⟩ := serve_state q a s
  simp only [coreReady, hready]
  simp [e, hrst, hb, hw]

end

end Sys2Proof.Machine

open Sys2Proof Sys2Proof.Machine

/-- Settles O50: a command that has not ended stands at an unserved port, and what is served there makes the core
ready. -/
theorem unservedPortHoldsTheCommand : Obligations.UnservedPortHoldsTheCommand := by
  unfold Obligations.UnservedPortHoldsTheCommand
  intro s i hb hd hr hw
  have hwaits {t : State} (h : exec i s = .next t) (hp : t.progress ≠ .start) := exec_waits hr h (.inr hp)
  refine ⟨fun hm => ?_, fun t h hp => ?_⟩
  · obtain ⟨t, h, hp⟩ := exec_waits_of_unserved hm
    obtain ⟨p, u, rfl, hu, -, -⟩ := hwaits h hp
    exact ⟨_, h, hp, hu.busy.trans hb⟩
  · obtain ⟨p, u, rfl, hu, hport, -⟩ := hwaits h hp
    have hturn : coreTurn (hold p u) = false := by simp [coreTurn, coreReady, hport.portReady hu.reply]
    refine ⟨hu.busy.trans hb, hu.done.trans hd, hu.pending, hu.err, hturn, step_of_hostTurn hturn, ?_⟩
    have hcore {q : List InItem} {a : List Answer} (hrst : s.rst = false) :
        portReady (serve q a (hold p u)) = true → coreReady (serve q a (hold p u)) = true :=
      coreReady_serve (hu.rst.trans hrst) (hu.busy.trans hb) (hu.pending.trans hw)
    split
    next hpush =>
      exact ⟨hport.push hpush, fun hrst a => hcore hrst (portReady_answer hpush hu.reply a)⟩
    next hpull =>
      have hpull : p.inPush = false := by simpa using hpull
      exact ⟨hport.pull hpull, fun hrst it => hcore hrst (portReady_present hp hpull it)⟩

end

section
/-! PROOFS. The register port: the fields of a register word as numbers, the address map, and the two windows
(R26 to R36, R60 to R65). -/

namespace Sys2Proof.Machine

/-! ### Fields of a word as numbers -/

/-- A field above a field of `k` bits. -/
theorem toNat_shiftLeft_or {n k : Nat} {x y : BitVec n} (hx : x.toNat * 2 ^ k < 2 ^ n) (hy : y.toNat < 2 ^ k) :
    (x <<< k ||| y).toNat = x.toNat * 2 ^ k + y.toNat := by
  rw [BitVec.toNat_or, BitVec.toNat_shiftLeft, Nat.mod_eq_of_lt (by rwa [Nat.shiftLeft_eq]),
    ← Nat.shiftLeft_add_eq_or_of_lt hy, Nat.shiftLeft_eq]

/-- A one-bit field above a field of `k` bits. -/
theorem toNat_or_fieldBit {x : Word} {k : Nat} (b : Bool) (hk : k < 32) (hx : x.toNat < 2 ^ k) :
    (x ||| fieldBit b k).toNat = x.toNat + 2 ^ k * b.toNat := by
  cases b with
  | false => simp [fieldBit]
  | true =>
    have h1 : (1#32).toNat * 2 ^ k < 2 ^ 32 := by simpa using Nat.pow_lt_pow_right (a := 2) (by decide) hk
    rw [BitVec.or_comm, fieldBit, if_pos rfl, toNat_shiftLeft_or h1 hx]
    simp [Nat.add_comm]

theorem toNat_weightLo (v : Weight) : (v.extractLsb' 0 32).toNat = v.toNat % 2 ^ 32 := by
  simp [BitVec.extractLsb'_toNat]

theorem toNat_weightHi (v : Weight) : ((v.extractLsb' 32 8).setWidth 32).toNat = v.toNat / 2 ^ 32 := by
  have := v.isLt
  simp only [BitVec.toNat_setWidth, BitVec.extractLsb'_toNat, Nat.shiftRight_eq_div_pow]
  omega

/-- TOTAL and BUDGET in their two registers (R33, R34). -/
theorem toNat_weightLo_add_weightHi (v : Weight) :
    (v.extractLsb' 0 32).toNat + 2 ^ 32 * ((v.extractLsb' 32 8).setWidth 32).toNat = v.toNat := by
  rw [toNat_weightLo, toNat_weightHi, Nat.mod_add_div]

theorem toNat_ofNat_nodeIx (j : NodeIx) : (BitVec.ofNat 32 j.val).toNat = j.val := by
  have := j.isLt
  rw [BitVec.toNat_ofNat]
  omega

/-- RESULT's three fields (R29). -/
theorem toNat_resultWord (r : Result) :
    (resultWord r).toNat = r.value.toNat + 2 ^ 8 * r.exh.toNat + 2 ^ 9 * r.valid.toNat := by
  have hv : (r.value.setWidth 32).toNat = r.value.toNat := BitVec.toNat_setWidth_of_le (by decide)
  have hlt := r.value.isLt
  have he := r.exh.toNat_lt
  have hlow := toNat_or_fieldBit (x := r.value.setWidth 32) r.exh (k := 8) (by decide) (by rwa [hv])
  rw [resultWord, toNat_or_fieldBit r.valid (by decide) (by rw [hlow, hv]; omega), hlow, hv]

/-- A byte above a bit count, the form of BW_STATE and BR_STATE (R35, R36). -/
theorem toNat_stateWord (b : Byte) {n : Nat} (hn : n < 2 ^ 8) :
    ((b.setWidth 32 <<< 8) ||| BitVec.ofNat 32 n).toNat = n + 2 ^ 8 * b.toNat := by
  have hb : (b.setWidth 32).toNat = b.toNat := BitVec.toNat_setWidth_of_le (by decide)
  have hlt := b.isLt
  have hlow : (BitVec.ofNat 32 n).toNat = n := by
    rw [BitVec.toNat_ofNat]
    omega
  rw [toNat_shiftLeft_or (by rw [hb]; omega) (by rwa [hlow]), hb, hlow]
  omega

/-! ### Register reads (R65) -/

section
variable {s : State} {r : Reg}

theorem readReg_state (r : Reg) (s : State) : ∃ x n, readReg r s = { s with readData := x, draws := n } := by
  unfold readReg
  split <;> exact ⟨_, _, rfl⟩

/-- Between commands every register reads as its value, and ID, CTRL and STATUS always. -/
theorem readReg_defined (h : s.busy = false ∨ r = .id ∨ r = .ctrl ∨ r = .status) :
    (readReg r s).readData = regValue r s := by
  have hdef : (s.busy && !r.readableBusy) = false := by
    rcases h with h | rfl | rfl | rfl <;> simp [*, Reg.readableBusy]
  simp [readReg, hdef]

/-- While BUSY = 1 any other register reads as the next free value (log entry 5). -/
theorem readReg_free (hb : s.busy = true) (hid : r ≠ .id) (hctrl : r ≠ .ctrl) (hstatus : r ≠ .status) :
    (readReg r s).readData = Config.freeRead s.draws ∧ (readReg r s).draws = s.draws + 1 := by
  have hfree : r.readableBusy = false := by cases r <;> simp_all [Reg.readableBusy]
  simp [readReg, hb, hfree]

end

/-! ### HIST and BUDGET writes (R34, R64) -/

/-- A HIST write replaces its entry alone. -/
theorem getElem_setHist (s : State) (i j : Byte) (v : Word) :
    (s.setHist i v).hist[j.toNat]'j.isLt = if j = i then v else s.histAt j := by
  simp only [State.setHist_hist, Vector.getElem_set, State.histAt, BitVec.toNat_inj, eq_comm (a := i)]

/-- Replacing BUDGET[31:0]. -/
theorem toNat_replaceLo (g : Weight) (v : Word) :
    ((g >>> 32) <<< 32 ||| v.setWidth 40).toNat = g.toNat / 2 ^ 32 * 2 ^ 32 + v.toNat := by
  have hg := g.isLt
  have hv : (v.setWidth 40).toNat = v.toNat := BitVec.toNat_setWidth_of_le (by decide)
  have hhi : (g >>> 32).toNat = g.toNat / 2 ^ 32 := by simp [Nat.shiftRight_eq_div_pow]
  rw [toNat_shiftLeft_or (by rw [hhi]; omega) (by rw [hv]; exact v.isLt), hhi, hv]

/-- Replacing BUDGET[39:32]; of the word written, bits [7:0] fit. -/
theorem toNat_replaceHi (g : Weight) (v : Word) :
    (v.setWidth 40 <<< 32 ||| (g.setWidth 32).setWidth 40).toNat = v.toNat % 256 * 2 ^ 32 + g.toNat % 2 ^ 32 := by
  have hcut : v.setWidth 40 <<< 32 = (v.setWidth 8).setWidth 40 <<< 32 := by
    apply BitVec.eq_of_toNat_eq
    simp only [BitVec.toNat_shiftLeft, BitVec.toNat_setWidth, Nat.shiftLeft_eq]
    omega
  rw [hcut, toNat_shiftLeft_or] <;> simp only [BitVec.toNat_setWidth] <;> omega

/-! ### The address map (R62) -/

theorem toNat_wordAddr (a : BitVec 16) : (wordAddr a).toNat = a.toNat / 4 := by
  have := a.isLt
  simp only [wordAddr, BitVec.extractLsb'_toNat, Nat.shiftRight_eq_div_pow]
  omega

theorem extractLsb'_eq_iff {n k l : Nat} (a : BitVec n) (x : BitVec l) :
    a.extractLsb' k l = x ↔ a.toNat / 2 ^ k % 2 ^ l = x.toNat := by
  rw [← BitVec.toNat_inj, BitVec.extractLsb'_toNat, Nat.shiftRight_eq_div_pow]

theorem Reg.ofAddr_hist {a : RegAddr} {i : Byte} (h : a.toNat = 0x100 + i.toNat) : Reg.ofAddr a = .hist i := by
  have := i.isLt
  have hi : a.extractLsb' 0 8 = i := (extractLsb'_eq_iff a i).2 (by omega)
  simp only [Reg.ofAddr, extractLsb'_eq_iff, h, hi, BitVec.toNat_ofNat]
  rw [if_neg (by omega), if_pos (by omega)]

theorem Reg.ofAddr_node {a : RegAddr} {j : BitVec 9} {w : BitVec 2} (h : a.toNat = 0x800 + 4 * j.toNat + w.toNat) :
    Reg.ofAddr a = .node j w := by
  have := j.isLt
  have := w.isLt
  have hj : a.extractLsb' 2 9 = j := (extractLsb'_eq_iff a j).2 (by omega)
  have hw : a.extractLsb' 0 2 = w := (extractLsb'_eq_iff a w).2 (by omega)
  simp only [Reg.ofAddr, extractLsb'_eq_iff, h, hj, hw, BitVec.toNat_ofNat]
  rw [if_neg (by omega), if_neg (by omega), if_pos (by omega)]

theorem Reg.ofAddr_code {a : RegAddr} {c : Byte} {w : BitVec 4} (h : a.toNat = 0x1000 + 16 * c.toNat + w.toNat) :
    Reg.ofAddr a = .code c w := by
  have := c.isLt
  have := w.isLt
  have hc : a.extractLsb' 4 8 = c := (extractLsb'_eq_iff a c).2 (by omega)
  have hw : a.extractLsb' 0 4 = w := (extractLsb'_eq_iff a w).2 (by omega)
  simp only [Reg.ofAddr, extractLsb'_eq_iff, h, hc, hw, BitVec.toNat_ofNat]
  rw [if_neg (by omega), if_neg (by omega), if_neg (by omega), if_pos (by omega)]

theorem Reg.ofAddr_reserved {a : RegAddr}
    (h : 0x10 ≤ a.toNat ∧ a.toNat < 0x100 ∨ 0x200 ≤ a.toNat ∧ a.toNat < 0x800 ∨ 0x2000 ≤ a.toNat) :
    Reg.ofAddr a = .reserved := by
  have := a.isLt
  simp only [Reg.ofAddr, extractLsb'_eq_iff, BitVec.toNat_ofNat]
  rw [if_neg (by omega), if_neg (by omega), if_neg (by omega), if_neg (by omega)]

/-! ### The NODE window (R63) -/

theorem nodeWindow_of_defined {s : State} {slot : BitVec 9} (h : slot.toNat < 511) (ht : s.treeValid = true)
    (hn : slot.toNat < s.tree.nnodes.toNat) (word : BitVec 2) :
    nodeWindow s slot word = nodeWord (s.tree.nodeAt ⟨slot.toNat, h⟩) word := by
  simp [nodeWindow, h, ht, hn]

theorem nodeWindow_of_undefined {s : State} {slot : BitVec 9}
    (h : s.treeValid = false ∨ s.tree.nnodes.toNat ≤ slot.toNat) (word : BitVec 2) :
    nodeWindow s slot word = 0#32 := by
  have hd : (s.treeValid && decide (slot.toNat < s.tree.nnodes.toNat)) = false := by
    rcases h with h | h <;> simp [h]
  simp [nodeWindow, hd]

/-- Word 0 of a leaf: VALID, LEAF and the symbol. -/
theorem toNat_nodeWord_leaf (sym : Byte) (w : Weight) :
    (nodeWord (.leaf sym w) 0#2).toNat = 2 ^ 31 + 2 ^ 30 + sym.toNat := by
  have hflags : fieldBit true 31 ||| fieldBit true 30 = 3#32 <<< 30 := by decide
  have hs : (sym.setWidth 32).toNat = sym.toNat := BitVec.toNat_setWidth_of_le (by decide)
  simp only [nodeWord, if_true, hflags]
  rw [toNat_shiftLeft_or (by decide) (by rw [hs]; exact sym.isLt.trans (by decide)), hs]
  rfl

/-- Word 0 of an internal node: VALID, HAS_LEFT and HAS_RIGHT. -/
theorem toNat_nodeWord_internal (w : Weight) (l : NodeIx) (r : Option NodeIx) :
    (nodeWord (.internal w l r) 0#2).toNat = 2 ^ 31 + 2 ^ 29 + (if r.isSome then 2 ^ 28 else 0) := by
  simp only [nodeWord, if_true]
  cases r.isSome <;> decide

/-- Word 3 of an internal node: its children. -/
theorem toNat_nodeWord_children (w : Weight) (l : NodeIx) (r : Option NodeIx) :
    (nodeWord (.internal w l r) 3#2).toNat = l.val * 2 ^ 16 + (r.map Fin.val).getD 0 := by
  have hl := l.isLt
  have habove {right : Word} (hr : right.toNat < 511) :
      (BitVec.ofNat 32 l.val <<< 16 ||| right).toNat = l.val * 2 ^ 16 + right.toNat := by
    rw [toNat_shiftLeft_or (by rw [toNat_ofNat_nodeIx]; omega) (by omega), toNat_ofNat_nodeIx]
  cases r with
  | none => exact habove (right := 0#32) (by decide)
  | some j =>
    have hj := toNat_ofNat_nodeIx j
    exact (habove (hj ▸ j.isLt)).trans (by rw [hj]; rfl)

theorem nodeWord_weightLo (nd : Node) : nodeWord nd 1#2 = nd.weight.extractLsb' 0 32 := by
  cases nd <;> rfl

theorem nodeWord_weightHi (nd : Node) : nodeWord nd 2#2 = (nd.weight.extractLsb' 32 8).setWidth 32 := by
  cases nd <;> rfl

/-! ### The CODE window (R63) -/

/-- Shifting `n` bits in from below leaves the last of them in bit 0. -/
theorem getLsbD_foldl_shift (bit : Nat → Bool) (n b : Nat) (hb : b < 32) :
    ((List.range n).foldl (fun (v : Word) k => (v <<< 1) ||| (BitVec.ofBool (bit k)).setWidth 32) 0#32).getLsbD b =
      (decide (b < n) && bit (n - 1 - b)) := by
  induction n generalizing b with
  | zero => simp
  | succ n ih =>
    rw [List.range_succ, List.foldl_append, List.foldl_cons, List.foldl_nil, BitVec.getLsbD_or,
      BitVec.getLsbD_shiftLeft]
    cases b with
    | zero => simp
    | succ b =>
      rw [ih (b + 1 - 1) (by omega)]
      simp [show n - 1 - b = n - (b + 1) by omega, hb]

theorem getLsbD_windowBits (bits : List Bool) (at32 : Nat) {b : Nat} (hb : b < 32) :
    (windowBits bits at32).getLsbD b = bits.getD (at32 + (31 - b)) false := by
  rw [windowBits, getLsbD_foldl_shift _ 32 b hb, decide_eq_true hb, Bool.true_and]

end Sys2Proof.Machine

open Sys2Proof Sys2Proof.Machine

/-- Settles O54: a BUDGET write puts its bits above or below the bits kept. -/
theorem histAndBudgetWrites : Obligations.HistAndBudgetWrites := by
  unfold Obligations.HistAndBudgetWrites
  intro s i v
  refine ⟨fun hb => ⟨if_pos hb, if_pos hb, if_pos hb⟩, fun hb => ?_⟩
  have hidle : ¬s.busy = true := by simp [hb]
  exact ⟨⟨(s.setHist i v).hist, if_neg hidle, fun j => getElem_setHist s i j v⟩,
    ⟨_, if_neg hidle, toNat_replaceLo s.budget v⟩, _, if_neg hidle, toNat_replaceHi s.budget v⟩

/-- Settles O55, field by field of each register word. -/
theorem readsHaveNoSideEffect : Obligations.ReadsHaveNoSideEffect := by
  unfold Obligations.ReadsHaveNoSideEffect
  intro s
  refine ⟨fun r => ⟨readReg_state r s, readReg_defined, readReg_free⟩, rfl, ?_, ?_, rfl, rfl,
    toNat_resultWord s.result, BitVec.toNat_setWidth_of_le (by decide), BitVec.toNat_setWidth_of_le (by decide),
    fun j hj => ?_, fun hr => ?_, toNat_weightLo_add_weightHi s.tree.total, toNat_weightLo_add_weightHi s.budget,
    toNat_stateWord s.bwAcc (s.bwNbits.isLt.trans (by decide)),
    toNat_stateWord s.brBuf (s.brNleft.isLt.trans (by decide)), fun _ => rfl⟩
  · cases h : s.ie <;> simp [regValue, fieldBit, h]
  · cases h : s.errcode <;> simp [regValue, ErrCode.number, h]
  · rw [regValue, hj, rootWord, toNat_ofNat_nodeIx]
  · rw [regValue, hr]
    rfl

/-- Settles O56, address by address as a number. -/
theorem registerMap : Obligations.RegisterMap := by
  unfold Obligations.RegisterMap
  refine ⟨fun _ _ => rfl, fun addr v s h => by simp [perform, hostWrite, h], by decide, fun i => ?_, fun j w => ?_,
    fun c w => ?_, fun a h => ?_, fun _ => rfl, fun r v s hhist hrest => ?_⟩
  · have := i.isLt
    exact Reg.ofAddr_hist (by rw [toNat_wordAddr, BitVec.toNat_ofNat]; omega)
  · have := j.isLt
    have := w.isLt
    exact Reg.ofAddr_node (by rw [toNat_wordAddr, BitVec.toNat_ofNat]; omega)
  · have := c.isLt
    have := w.isLt
    exact Reg.ofAddr_code (by rw [toNat_wordAddr, BitVec.toNat_ofNat]; omega)
  · exact Reg.ofAddr_reserved (by rw [toNat_wordAddr]; omega)
  · cases r with
    | ctrl | status | cmd | budgetLo | budgetHi => simp at hrest
    | hist i => exact absurd rfl (hhist i)
    | _ => rfl

/-- Settles O57, word by word of a defined slot. -/
theorem nodeWindowShowsTheSlot : Obligations.NodeWindowShowsTheSlot := by
  unfold Obligations.NodeWindowShowsTheSlot
  intro s slot h
  refine ⟨fun ht hn => ?_, nodeWindow_of_undefined, fun _ => rfl⟩
  intro nd
  have hword (w : BitVec 2) : regValue (.node slot w) s = nodeWord nd w := nodeWindow_of_defined h ht hn w
  simp only [hword]
  refine ⟨fun sym w hnd => ?_, fun w l r hnd => ?_, ?_, ?_⟩
  · exact hnd ▸ ⟨toNat_nodeWord_leaf sym w, rfl⟩
  · exact hnd ▸ ⟨toNat_nodeWord_internal w l r, toNat_nodeWord_children w l r⟩
  · rw [nodeWord_weightLo, toNat_weightLo]
  · rw [nodeWord_weightHi, toNat_weightHi]

/-- Settles O58, bit by bit; past word 8 a code of at most 255 bits has ended. -/
theorem codeWindowShowsTheCode : Obligations.CodeWindowShowsTheCode := by
  unfold Obligations.CodeWindowShowsTheCode
  intro s sym
  refine ⟨fun hv hlen => ⟨?_, fun w b hw hb => ?_⟩, fun hv w => ?_⟩
  · simp only [regValue, codeWindow, hv, if_true, BitVec.toNat_setWidth, BitVec.toNat_ofNat]
    omega
  · simp only [regValue, codeWindow, hv, hw, if_true, if_false]
    split
    · exact getLsbD_windowBits _ _ hb
    next h8 =>
      have hend : (s.codeAt sym).length ≤ 32 * (w.toNat - 1) + (31 - b) := by omega
      rw [List.getD_eq_default _ _ hend, BitVec.getLsbD_zero]
  · simp [regValue, codeWindow, hv]

end

section
/-! PROOFS. The decoder and the encoder are inverse to each other; what a word that is no command does
(R90 to R95). -/

namespace Sys2Proof

open Sys2Proof.Machine

/-! ### The two fields of a word -/

/-- A word is its OPC and its OPD (R91). -/
theorem eq_of_opcOf_opdOf {w v : Word} (hc : opcOf w = opcOf v) (hd : opdOf w = opdOf v) : w = v := by
  have hlt := v.isLt
  simp only [opcOf, opdOf, extractLsb'_eq_iff, BitVec.extractLsb'_toNat, Nat.shiftRight_eq_div_pow] at hc hd
  exact BitVec.eq_of_toNat_eq (by omega)

@[simp] theorem opcOf_encode (i : Instr) : opcOf (encode i) = i.opc := (Laws.OpcodeField.of_fields i.opc i.opd).1
@[simp] theorem opdOf_encode (i : Instr) : opdOf (encode i) = i.opd := (Laws.OpcodeField.of_fields i.opc i.opd).2

/-- A word is a command's encoding when its fields are the command's. -/
theorem encode_eq_iff {i : Instr} {w : Word} : encode i = w ↔ opcOf w = i.opc ∧ opdOf w = i.opd := by
  refine ⟨fun h => h ▸ ⟨opcOf_encode i, opdOf_encode i⟩, fun ⟨hc, hd⟩ => ?_⟩
  exact eq_of_opcOf_opdOf (by rw [opcOf_encode, hc]) (by rw [opdOf_encode, hd])

/-- OPD of form CODE as a number: LEN above BITS (R92). -/
theorem toNat_codeOpd (len : BitVec 5) (bits : BitVec 16) :
    (len.setWidth 24 <<< 16 ||| bits.setWidth 24).toNat = len.toNat * 2 ^ 16 + bits.toNat := by
  have hl := len.isLt
  have hb := bits.isLt
  rw [toNat_shiftLeft_or] <;> simp only [BitVec.toNat_setWidth] <;> omega

/-! ### The operand forms -/

theorem acceptOperand_eq_ok {reservedZero : Bool} {i j : Instr} :
    acceptOperand reservedZero i = .ok j ↔ (reservedZero = true ∧ i.wf = true) ∧ i = j := by
  simp [acceptOperand, ite_eq_iff]

theorem acceptOperand_eq_badOperand {reservedZero : Bool} {i : Instr} :
    acceptOperand reservedZero i = .error .badOperand ↔ ¬(reservedZero = true ∧ i.wf = true) := by
  simp [acceptOperand]

theorem formZ_eq_ok {opd : BitVec 24} {i : Instr} : formZ opd i = .ok i ↔ opd = 0#24 ∧ i.wf = true := by
  simp [formZ, acceptOperand_eq_ok]

/-- Forms BIT and SYM: a byte under zero bits (R92). -/
theorem eq_byteOpd_iff {opd : BitVec 24} {b : BitVec 8} :
    opd = b.setWidth 24 ↔ opd.extractLsb' 8 16 = 0#16 ∧ opd.extractLsb' 0 8 = b := by
  have := opd.isLt
  have := b.isLt
  simp only [extractLsb'_eq_iff, ← BitVec.toNat_inj (x := opd), BitVec.toNat_setWidth, BitVec.toNat_ofNat]
  omega

/-- Form CODE: BITS and LEN under zero bits (R92). -/
theorem eq_codeOpd_iff {opd : BitVec 24} {len : BitVec 5} {bits : BitVec 16} :
    opd = len.setWidth 24 <<< 16 ||| bits.setWidth 24 ↔
      opd.extractLsb' 21 3 = 0#3 ∧ opd.extractLsb' 16 5 = len ∧ opd.extractLsb' 0 16 = bits := by
  have := opd.isLt
  have := len.isLt
  have := bits.isLt
  simp only [extractLsb'_eq_iff, ← BitVec.toNat_inj (x := opd), toNat_codeOpd, BitVec.toNat_ofNat]
  omega

theorem formBit_eq_ok {opd : BitVec 24} {val : BitVec 8} :
    formBit opd = .ok (.bwbit val) ↔ opd = val.setWidth 24 ∧ (Instr.bwbit val).wf = true := by
  simp only [formBit, acceptOperand_eq_ok, eq_byteOpd_iff, beq_iff_eq, Instr.bwbit.injEq]
  exact ⟨fun ⟨⟨hr, hwf⟩, hv⟩ => ⟨⟨hr, hv⟩, hv ▸ hwf⟩, fun ⟨⟨hr, hv⟩, hwf⟩ => ⟨⟨hr, hv ▸ hwf⟩, hv⟩⟩

theorem formSym_eq_ok {opd : BitVec 24} {sym : BitVec 8} :
    formSym opd = .ok (.encb sym) ↔ opd = sym.setWidth 24 ∧ (Instr.encb sym).wf = true := by
  simp only [formSym, acceptOperand_eq_ok, eq_byteOpd_iff, beq_iff_eq, Instr.encb.injEq]
  exact ⟨fun ⟨⟨hr, hwf⟩, hv⟩ => ⟨⟨hr, hv⟩, hwf⟩, fun ⟨⟨hr, hv⟩, hwf⟩ => ⟨⟨hr, hwf⟩, hv⟩⟩

theorem formCode_eq_ok {opd : BitVec 24} {len : BitVec 5} {bits : BitVec 16} :
    formCode opd = .ok (.bwcode len bits) ↔
      opd = len.setWidth 24 <<< 16 ||| bits.setWidth 24 ∧ (Instr.bwcode len bits).wf = true := by
  simp only [formCode, acceptOperand_eq_ok, eq_codeOpd_iff, beq_iff_eq, Instr.bwcode.injEq]
  constructor
  · rintro ⟨⟨hr, hwf⟩, rfl, rfl⟩
    exact ⟨⟨hr, rfl, rfl⟩, hwf⟩
  · rintro ⟨⟨hr, rfl, rfl⟩, hwf⟩
    exact ⟨⟨hr, hwf⟩, rfl, rfl⟩

/-! ### Decoding and encoding -/

/-- The row of a command decodes to it exactly its own operand, if that is legal (R92, R94). -/
theorem decodeOpc_opc_eq_ok {i : Instr} {opd : BitVec 24} :
    decodeOpc i.opc opd = .ok i ↔ opd = i.opd ∧ i.wf = true := by
  cases i with
  | bwbit val => exact formBit_eq_ok
  | bwcode len bits => exact formCode_eq_ok
  | encb sym => exact formSym_eq_ok
  | _ => exact formZ_eq_ok

/-- The words that decode to a command are its encoding, if it is well formed, and no other (R95). -/
theorem decode_eq_ok_iff {w : Word} {i : Instr} : decode w = .ok i ↔ encode i = w ∧ i.wf = true := by
  rw [encode_eq_iff]
  constructor
  · intro h
    have hc := opcOf_of_decode h
    rw [decode, hc, decodeOpc_opc_eq_ok] at h
    exact ⟨⟨hc, h.1⟩, h.2⟩
  · rintro ⟨⟨hc, hd⟩, hwf⟩
    rw [decode, hc, decodeOpc_opc_eq_ok]
    exact ⟨hd, hwf⟩

/-! ### The words that are no command -/

/-- Legality of the operand of each form, as the decoder checks it and as a number (R92). -/
theorem formZ_legal (opd : BitVec 24) {i : Instr} (h : i.wf = true) :
    ((opd == 0#24) = true ∧ i.wf = true) ↔ opd.toNat = 0 := by
  simp [h, ← BitVec.toNat_inj]

theorem formBit_legal (opd : BitVec 24) :
    ((opd.extractLsb' 8 16 == 0#16) = true ∧ (Instr.bwbit (opd.extractLsb' 0 8)).wf = true) ↔ opd.toNat ≤ 1 := by
  simp only [Instr.wf, beq_iff_eq, Bool.or_eq_true, extractLsb'_eq_iff, BitVec.toNat_ofNat]
  omega

theorem formCode_legal (opd : BitVec 24) :
    ((opd.extractLsb' 21 3 == 0#3) = true ∧
        (Instr.bwcode (opd.extractLsb' 16 5) (opd.extractLsb' 0 16)).wf = true) ↔
      opd.toNat < 2 ^ 21 ∧ opd.toNat / 2 ^ 16 ≤ 16 ∧ opd.toNat % 2 ^ 16 < 2 ^ (opd.toNat / 2 ^ 16) := by
  have hres : opd.extractLsb' 21 3 = 0#3 ↔ opd.toNat < 2 ^ 21 := by
    rw [extractLsb'_eq_iff, BitVec.toNat_ofNat]
    omega
  simp only [Instr.wf, beq_iff_eq, Bool.and_eq_true, decide_eq_true_eq, hres, and_congr_right_iff,
    BitVec.extractLsb'_toNat, Nat.shiftRight_eq_div_pow, pow_zero, Nat.div_one]
  intro h
  rw [Nat.mod_eq_of_lt (a := opd.toNat / 2 ^ 16) (by omega)]

theorem formSym_legal (opd : BitVec 24) :
    ((opd.extractLsb' 8 16 == 0#16) = true ∧ (Instr.encb (opd.extractLsb' 0 8)).wf = true) ↔
      opd.toNat < 256 := by
  simp only [Instr.wf, beq_iff_eq, and_true, extractLsb'_eq_iff, BitVec.toNat_ofNat]
  omega

/-- An OPC of the map has a row, which takes an operand exactly when it is legal (R92, R94). -/
theorem decodeOpc_of_mem {opc : BitVec 8} (h : opc ∈ opcodes) (opd : BitVec 24) :
    ∃ r i, decodeOpc opc opd = acceptOperand r i ∧ i.opc = opc ∧
      ((r = true ∧ i.wf = true) ↔ operandLegal opc opd.toNat) := by
  by_cases hbit : opc = 0x20#8
  · exact hbit ▸ ⟨_, _, rfl, rfl, formBit_legal opd⟩
  by_cases hcode : opc = 0x21#8
  · exact hcode ▸ ⟨_, _, rfl, rfl, formCode_legal opd⟩
  by_cases hsym : opc = 0x23#8
  · exact hsym ▸ ⟨_, _, rfl, rfl, formSym_legal opd⟩
  simp only [opcodes, List.mem_cons, List.not_mem_nil, or_false, hbit, hcode, hsym, false_or] at h
  rcases h with rfl | rfl | rfl | rfl | rfl | rfl | rfl | rfl | rfl | rfl | rfl | rfl | rfl | rfl | rfl <;>
    exact ⟨_, _, rfl, rfl, formZ_legal opd rfl⟩

theorem decodeOpc_of_not_mem {opc : BitVec 8} (h : opc ∉ opcodes) (opd : BitVec 24) :
    decodeOpc opc opd = .error .illegalCmd := by
  simp only [opcodes, List.mem_cons, List.not_mem_nil, or_false, not_or] at h
  simp only [decodeOpc, h, if_false]

/-- ILLEGAL_CMD is for the OPC values with no row, and for no others (R95). -/
theorem decode_eq_illegalCmd_iff {w : Word} : decode w = .error .illegalCmd ↔ opcOf w ∉ opcodes := by
  refine ⟨fun hd h => ?_, fun h => decodeOpc_of_not_mem h _⟩
  obtain ⟨r, i, e, -, -⟩ := decodeOpc_of_mem h (opdOf w)
  rw [decode, e, acceptOperand] at hd
  split at hd <;> cases hd

section
variable {w : Word} (hc : opcOf w ∈ opcodes)
include hc

theorem decode_of_operandLegal (h : operandLegal (opcOf w) (opdOf w).toNat) :
    ∃ i, decode w = .ok i ∧ i.opc = opcOf w := by
  obtain ⟨r, i, e, hi, hlegal⟩ := decodeOpc_of_mem hc (opdOf w)
  exact ⟨i, by rw [decode, e, acceptOperand_eq_ok]; exact ⟨hlegal.2 h, rfl⟩, hi⟩

theorem decode_of_not_operandLegal (h : ¬operandLegal (opcOf w) (opdOf w).toNat) :
    decode w = .error .badOperand := by
  obtain ⟨r, i, e, -, hlegal⟩ := decodeOpc_of_mem hc (opdOf w)
  rw [decode, e, acceptOperand_eq_badOperand, hlegal]
  exact h

end

/-- Under OPC 0x20 VAL is OPD[7:0] (R92). -/
theorem decode_bwbit {w : Word} {i : Instr} (h : decode w = .ok i) (hc : opcOf w = 0x20#8) :
    i = .bwbit (BitVec.ofNat 8 (opdOf w).toNat) := by
  rw [decode, hc] at h
  exact eq_of_acceptOperand h

/-- Under OPC 0x21 LEN is OPD[20:16] and BITS is OPD[15:0] (R92). -/
theorem decode_bwcode {w : Word} {i : Instr} (h : decode w = .ok i) (hc : opcOf w = 0x21#8) :
    i = .bwcode (BitVec.ofNat 5 ((opdOf w).toNat / 2 ^ 16)) (BitVec.ofNat 16 (opdOf w).toNat) := by
  rw [decode, hc] at h
  rw [← Nat.shiftRight_eq_div_pow]
  exact eq_of_acceptOperand h

/-- Under OPC 0x23 SYM is OPD[7:0] (R92). -/
theorem decode_encb {w : Word} {i : Instr} (h : decode w = .ok i) (hc : opcOf w = 0x23#8) :
    i = .encb (BitVec.ofNat 8 (opdOf w).toNat) := by
  rw [decode, hc] at h
  exact eq_of_acceptOperand h

/-- A legal operand has no reserved bit set (R92). -/
theorem reservedOperand_of_legal {opc : BitVec 8} {opd : Nat} (h : operandLegal opc opd) :
    reservedOperand opc opd = 0 := by
  by_cases hbit : opc = 0x20#8
  · subst hbit
    exact Nat.div_eq_of_lt (Nat.lt_of_le_of_lt (show opd ≤ 1 from h) (by decide))
  by_cases hcode : opc = 0x21#8
  · subst hcode
    exact Nat.div_eq_of_lt (And.left h)
  by_cases hsym : opc = 0x23#8
  · subst hsym
    exact Nat.div_eq_of_lt (show opd < 256 from h)
  · simpa [operandLegal, reservedOperand, hbit, hcode, hsym] using h

/-- The error a refused word raises (R92, R95). -/
def DecodeError.code : DecodeError → ErrCode
  | .illegalCmd => .illegalCmd
  | .badOperand => .badOperand

end Sys2Proof

namespace Sys2Proof.Machine

/-- The core's turn on a word that is no command is its error entry, ERRINFO = w (R92, R95, R214). -/
theorem step_of_decode_error {s : State} {w : Word} {e : DecodeError} (hrst : s.rst = false) (hb : s.busy = true)
    (hw : s.pending = some w) (hp : s.progress = .start) (hf : hostFirst s = false) (hd : decode w = .error e) :
    step s = .next { s with
      busy := false, done := true, pending := none, err := true, errcode := e.code, errinfo := w
      result := if clearsResult (opcOf w) then Result.zero else s.result } := by
  have hturn : coreTurn s = true := by simp [coreTurn, coreReady, portReady, hrst, hb, hw, hp, hf]
  have hcore : coreStep s = .next (errorEntry w e.code w s) := by
    cases e <;> simp [coreStep, hw, hp, hd, DecodeError.code]
  rw [step_of_coreTurn hturn, hcore]
  simp [errorEntry, complete, ← hp]

theorem clearsResult_iff (opc : BitVec 8) :
    clearsResult opc = true ↔ opc = 0x31#8 ∨ opc = 0x33#8 ∨ opc = 0x34#8 := by
  simp [clearsResult, or_assoc]

end Sys2Proof.Machine

open Sys2Proof Sys2Proof.Machine

/-- Settles O1: decoding inverts encoding. -/
theorem decodeOfEncode : Obligations.DecodeOfEncode := fun _ hwf => decode_eq_ok_iff.2 ⟨rfl, hwf⟩

/-- Settles O2: no other word decodes to the command. -/
theorem encodeOfDecode : Obligations.EncodeOfDecode := fun _ _ => decode_eq_ok_iff.1

/-- Settles O5: a legal operand is taken by its row, and any other word is refused by BAD_OPERAND's error entry. -/
theorem illegalOperandRaisesBadOperand : Obligations.IllegalOperandRaisesBadOperand := by
  intro w hc
  refine ⟨fun hlegal => ?_, fun hillegal => ?_⟩
  · obtain ⟨i, hd, hi⟩ := decode_of_operandLegal hc hlegal
    exact ⟨⟨i, hd, hi⟩, fun h => decode_bwbit hd h ▸ hd, fun h => decode_bwcode hd h ▸ hd,
      fun h => decode_encb hd h ▸ hd⟩
  · have hd := decode_of_not_operandLegal hc hillegal
    refine ⟨hd, fun s hrst hb hw hp hf => ?_⟩
    rw [step_of_decode_error hrst hb hw hp hf hd]
    simp only [clearsResult_iff]
    rfl

/-- Settles O3, by running the decoder on each word. -/
theorem wordsOfTheMapDecode : Obligations.WordsOfTheMapDecode := by
  unfold Obligations.WordsOfTheMapDecode
  decide

/-- Settles O4: a word without a row is refused by ILLEGAL_CMD's error entry, and a legal operand has no reserved
bit set. -/
theorem illegalOpcodeRaisesIllegalCmd : Obligations.IllegalOpcodeRaisesIllegalCmd := by
  refine ⟨fun w => decode_eq_illegalCmd_iff.symm, by decide, fun s w hrst hb hw hp hf hc => ?_, fun w hc hres => ?_⟩
  · have hclear : clearsResult (opcOf w) ≠ true := fun h => hc (by
      rcases (clearsResult_iff _).1 h with h | h | h <;> rw [h] <;> decide)
    rw [step_of_decode_error hrst hb hw hp hf (decode_eq_illegalCmd_iff.2 hc), if_neg hclear]
    rfl
  · exact decode_of_not_operandLegal hc (mt reservedOperand_of_legal hres)

/-- Settles O6: the core's turn on a command not yet begun. -/
theorem stepRunsDecodedCommand : Obligations.StepRunsDecodedCommand :=
  fun _ _ _ => step_of_start
end

section
/-! PROOFS. What the BitWriter does with a bit string (R69, R150), and BWCODE settled (R93, R154). -/

namespace Sys2Proof.Machine

/-! ### Bit strings as numbers and bytes -/

theorem bitsNat_append_one (l : List Bool) (b : Bool) : bitsNat (l ++ [b]) = 2 * bitsNat l + b.toNat := by
  simp [bitsNat]

/-- The low `n` bits of a number, the highest of them first, are the number modulo `2 ^ n`. -/
theorem bitsNat_lowBits (x n : Nat) :
    bitsNat ((List.range n).map fun k => x.testBit (n - 1 - k)) = x % 2 ^ n := by
  induction n generalizing x with
  | zero => simp [bitsNat, Nat.mod_one]
  | succ n ih =>
    have hhigh : (List.range n).map (fun k => x.testBit (n + 1 - 1 - k)) =
        (List.range n).map fun k => (x / 2).testBit (n - 1 - k) :=
      List.map_congr_left fun k hk => by
        have := List.mem_range.1 hk
        rw [← Nat.testBit_succ, show n + 1 - 1 - k = n - 1 - k + 1 by omega]
    rw [List.range_succ, List.map_append, hhigh, List.map_singleton, bitsNat_append_one, ih, Nat.add_sub_cancel,
      Nat.sub_self, Nat.testBit_zero, Nat.pow_succ', Nat.mod_mul]
    rcases Nat.mod_two_eq_zero_or_one x with h | h <;> simp [h, Nat.add_comm]

theorem wholeBytes_of_short {bits : List Bool} (h : bits.length < 8) : wholeBytes bits = [] := by
  simp [wholeBytes, Nat.div_eq_of_lt h]

theorem restBits_of_short {bits : List Bool} (h : bits.length < 8) : restBits bits = bits := by
  simp [restBits, Nat.div_eq_of_lt h]

theorem length_div_eight_append {front : List Bool} (h : front.length = 8) (bits : List Bool) :
    (front ++ bits).length / 8 = bits.length / 8 + 1 := by
  rw [List.length_append, h]
  omega

theorem drop_byte_append {front : List Bool} (h : front.length = 8) (bits : List Bool) (k : Nat) :
    (front ++ bits).drop (8 * (k + 1)) = bits.drop (8 * k) := by
  rw [List.drop_append, List.drop_of_length_le (by omega), h, List.nil_append]
  congr 1

theorem wholeBytes_append {front : List Bool} (h : front.length = 8) (bits : List Bool) :
    wholeBytes (front ++ bits) = BitVec.ofNat 8 (bitsNat front) :: wholeBytes bits := by
  rw [wholeBytes, length_div_eight_append h, List.range_succ_eq_map, List.map_cons, List.map_map]
  congr 1
  · simp [← h]
  · exact List.map_congr_left fun k _ => by simp [drop_byte_append h]

theorem restBits_append {front : List Bool} (h : front.length = 8) (bits : List Bool) :
    restBits (front ++ bits) = restBits bits := by
  rw [restBits, length_div_eight_append h, drop_byte_append h, restBits]

@[simp] theorem length_wholeBytes (bits : List Bool) : (wholeBytes bits).length = bits.length / 8 := by
  simp [wholeBytes]

/-! ### The bits the writer holds -/

section
variable {s : State}

@[simp] theorem length_writerBits (s : State) : (writerBits s).length = s.bwNbits.val := by
  simp [writerBits]

theorem bitsNat_writerBits (h : writerClean s) : bitsNat (writerBits s) = s.bwAcc.toNat :=
  (bitsNat_lowBits _ _).trans (Nat.mod_eq_of_lt h)

theorem getLsbD_shiftIn_zero (acc : Byte) (b : Bool) : (shiftIn acc b).getLsbD 0 = b := by
  simp [shiftIn]

theorem getLsbD_shiftIn_succ (acc : Byte) (b : Bool) {j : Nat} (hj : j + 1 < 8) :
    (shiftIn acc b).getLsbD (j + 1) = acc.getLsbD j := by
  simp [shiftIn, hj, BitVec.getLsbD_eq_getElem (show j < 8 by omega)]

/-- The bits held and one more are the low bits of the accumulator with that bit shifted in (R150). -/
theorem writerBits_append_one (s : State) (b : Bool) : writerBits s ++ [b] =
    (List.range (s.bwNbits.val + 1)).map fun k => (shiftIn s.bwAcc b).getLsbD (s.bwNbits.val + 1 - 1 - k) := by
  have hn := s.bwNbits.isLt
  rw [writerBits, List.range_succ, List.map_append, List.map_singleton, Nat.add_sub_cancel, Nat.sub_self,
    getLsbD_shiftIn_zero]
  congr 1
  refine List.map_congr_left fun k hk => ?_
  have hk := List.mem_range.1 hk
  rw [show s.bwNbits.val - k = s.bwNbits.val - 1 - k + 1 by omega, getLsbD_shiftIn_succ _ _ (by omega)]

theorem writerBits_setWriter_shiftIn (b : Bool) {n : Fin 8} (hn : n.val = s.bwNbits.val + 1) :
    writerBits (s.setWriter (shiftIn s.bwAcc b) n) = writerBits s ++ [b] := by
  rw [writerBits_append_one, writerBits, State.setWriter_bwNbits, State.setWriter_bwAcc, hn]

/-- The bit that completes a byte: the bits held and it are the byte pushed (R150). -/
theorem ofNat_bitsNat_append_one (h : s.bwNbits = 7) (b : Bool) :
    BitVec.ofNat 8 (bitsNat (writerBits s ++ [b])) = shiftIn s.bwAcc b := by
  have hnat : bitsNat (writerBits s ++ [b]) = (shiftIn s.bwAcc b).toNat % 2 ^ 8 := by
    rw [writerBits_append_one, h]
    exact bitsNat_lowBits _ 8
  rw [hnat, Nat.mod_eq_of_lt (BitVec.isLt _), BitVec.ofNat_toNat, BitVec.setWidth_eq]

/-- Writing nothing leaves a clean writer as it is. -/
theorem afterBits_nil (h : writerClean s) : afterBits [] s = s := by
  have hlen : (writerBits s).length < 8 := by simp
  simp [afterBits, wholeBytes_of_short hlen, restBits_of_short hlen, bitsNat_writerBits h, delivered,
    Nat.mod_eq_of_lt s.bwNbits.isLt]

/-! ### One more bit held -/

section
variable {acc : Byte} {n : Fin 8} {b : Bool} (h : writerBits (s.setWriter acc n) = writerBits s ++ [b])
  (bits : List Bool)
include h

theorem writerBits_setWriter_append : writerBits (s.setWriter acc n) ++ bits = writerBits s ++ b :: bits := by
  rw [h, List.append_assoc, List.singleton_append]

theorem afterBits_setWriter : afterBits bits (s.setWriter acc n) = afterBits (b :: bits) s := by
  simp only [afterBits, writerBits_setWriter_append h]
  rfl

theorem untilPush_setWriter (k : Nat) (rest : List Answer) :
    untilPush bits k rest (s.setWriter acc n) = untilPush (b :: bits) k rest s := by
  simp only [untilPush, writerBits_setWriter_append h]
  rfl

theorem pushedByte_setWriter (k : Nat) : pushedByte bits k (s.setWriter acc n) = pushedByte (b :: bits) k s := by
  simp only [pushedByte, writerBits_setWriter_append h]

theorem bitsPushes_setWriter : bitsPushes bits (s.setWriter acc n) = bitsPushes (b :: bits) s := by
  simp only [bitsPushes, writerBits_setWriter_append h]

end

/-! ### One more byte pushed -/

theorem untilPush_zero (bits : List Bool) : untilPush bits 0 s.answers s = s.setWriter 0#8 0 := by
  simp only [untilPush, List.take_zero, List.append_nil]
  rfl

section
variable (h7 : s.bwNbits = 7) (b : Bool) (bits : List Bool) (more : List Answer)
include h7

/-- The bit that completes a byte splits it off the string (R150). -/
theorem wholeBytes_writerBits_append :
    wholeBytes (writerBits s ++ b :: bits) = shiftIn s.bwAcc b :: wholeBytes bits := by
  rw [List.append_cons, wholeBytes_append (by simp [h7]), ofNat_bitsNat_append_one h7]

theorem restBits_writerBits_append : restBits (writerBits s ++ b :: bits) = restBits bits := by
  rw [List.append_cons, restBits_append (by simp [h7])]

theorem afterBits_deliver (ha : s.answers = .ok :: more) :
    afterBits bits ((s.setWriter 0#8 0).deliver [shiftIn s.bwAcc b] more) = afterBits (b :: bits) s := by
  simp only [afterBits, delivered, wholeBytes_writerBits_append h7, restBits_writerBits_append h7, ha,
    List.append_cons s.output (shiftIn s.bwAcc b) (wholeBytes bits)]
  rfl

theorem untilPush_deliver (k : Nat) (rest : List Answer) :
    untilPush bits k rest ((s.setWriter 0#8 0).deliver [shiftIn s.bwAcc b] more) =
      untilPush (b :: bits) (k + 1) rest s := by
  simp only [untilPush, wholeBytes_writerBits_append h7, List.take_succ_cons,
    List.append_cons s.output (shiftIn s.bwAcc b) ((wholeBytes bits).take k)]
  rfl

theorem pushedByte_deliver (k : Nat) :
    pushedByte bits k ((s.setWriter 0#8 0).deliver [shiftIn s.bwAcc b] more) = pushedByte (b :: bits) (k + 1) s := by
  simp only [pushedByte, wholeBytes_writerBits_append h7, List.getD_cons_succ]
  rfl

theorem bitsPushes_deliver :
    bitsPushes (b :: bits) s = bitsPushes bits ((s.setWriter 0#8 0).deliver [shiftIn s.bwAcc b] more) + 1 := by
  simp only [bitsPushes, ← length_wholeBytes, wholeBytes_writerBits_append h7, List.length_cons]
  rfl

theorem pushedByte_zero : pushedByte (b :: bits) 0 s = shiftIn s.bwAcc b := by
  simp only [pushedByte, wholeBytes_writerBits_append h7, List.getD_cons_zero]

end

/-! ### Writing a bit string -/

theorem sinkAccepts_succ {n : Nat} (h : sinkAccepts (n + 1) s) :
    ∃ more, s.answers = .ok :: more ∧ more.take n = List.replicate n .ok := by
  unfold sinkAccepts at h
  cases ha : s.answers with
  | nil => simp [ha] at h
  | cons a more =>
    simp only [ha, List.take_succ_cons, List.replicate_succ, List.cons.injEq] at h
    exact ⟨more, by rw [h.1], h.2⟩

/-- With its pushes answered OK the string is written whole (R150, R152, R154). -/
theorem writeBits_ok (stream : Bool) {bits : List Bool} (hc : writerClean s)
    (ha : sinkAccepts (bitsPushes bits s) s) : writeBits stream bits s = .ok () (afterBits bits s) := by
  induction bits generalizing s with
  | nil => rw [afterBits_nil hc, writeBits]
  | cons b bits ih =>
    rw [writeBits]
    rcases writeBit_cases stream bits b s with ⟨hn, e⟩ | ⟨h7, e⟩ <;> rw [e]
    · have hw := writerBits_setWriter_shiftIn (s := s) b (n := ⟨s.bwNbits.val + 1, hn⟩) rfl
      rw [Run.andThen_ok, ← afterBits_setWriter hw]
      exact ih (shiftIn_clean b hc) (bitsPushes_setWriter hw bits ▸ ha)
    · obtain ⟨more, hok, hmore⟩ := sinkAccepts_succ (bitsPushes_deliver h7 b bits [] ▸ ha)
      rw [pushByte_ok (s := s.setWriter 0#8 0) hok, Run.andThen_ok, ← afterBits_deliver h7 b bits more hok]
      exact ih (by simp [writerClean]) hmore

/-- With its first `k` pushes answered OK the string's writing comes to its next push, if there is one. -/
theorem writeBits_comes_to_push (stream : Bool) {bits : List Bool} {k : Nat} (hk : k < bitsPushes bits s)
    {more : List Answer} (ha : s.answers = List.replicate k .ok ++ more) :
    ∃ rest, writeBits stream bits s =
      (pushByte (.write stream (pushedByte bits k s) rest) (pushedByte bits k s) (untilPush bits k more s)).andThen
        fun _ s => writeBits stream rest s := by
  induction bits generalizing s k with
  | nil =>
    have := s.bwNbits.isLt
    simp only [bitsPushes, List.append_nil, length_writerBits] at hk
    omega
  | cons b bits ih =>
    rw [writeBits]
    rcases writeBit_cases stream bits b s with ⟨hn, e⟩ | ⟨h7, e⟩ <;> rw [e]
    · have hw := writerBits_setWriter_shiftIn (s := s) b (n := ⟨s.bwNbits.val + 1, hn⟩) rfl
      rw [Run.andThen_ok, ← pushedByte_setWriter hw, ← untilPush_setWriter hw]
      exact ih (bitsPushes_setWriter hw bits ▸ hk) ha
    · cases k with
      | zero =>
        obtain rfl : s.answers = more := ha
        exact ⟨bits, by rw [untilPush_zero, pushedByte_zero h7]⟩
      | succ k =>
        rw [pushByte_ok (s := s.setWriter 0#8 0) ha, Run.andThen_ok, ← pushedByte_deliver h7,
          ← untilPush_deliver h7]
        exact ih (Nat.lt_of_succ_lt_succ (hk.trans_eq (bitsPushes_deliver h7 b bits _))) rfl

/-- The push answered IOERR ends the writing with the writer empty and the byte lost (R158). -/
theorem writeBits_ioerr (stream : Bool) {bits : List Bool} {k : Nat} (hk : k < bitsPushes bits s)
    {rest : List Answer} (ha : s.answers = List.replicate k .ok ++ .ioerr :: rest) :
    writeBits stream bits s = .raised .underlyingIo 1#32 (untilPush bits k rest s) := by
  obtain ⟨_, e⟩ := writeBits_comes_to_push stream hk ha
  rw [e, pushByte_ioerr (rest := rest) rfl, Run.andThen_raised]
  simp [untilPush, State.deliver]

/-- The writing waits in its first unanswered push (R37, R67). -/
theorem writeBits_held (stream : Bool) {bits : List Bool} {k : Nat} (hk : k < bitsPushes bits s)
    (ha : s.answers = List.replicate k .ok) :
    ∃ rest, writeBits stream bits s = .held (.write stream (pushedByte bits k s) rest) (untilPush bits k [] s) := by
  obtain ⟨rest, e⟩ := writeBits_comes_to_push stream hk (ha.trans (List.append_nil _).symm)
  exact ⟨rest, by rw [e, pushByte_nil rfl, Run.andThen_held]⟩

end

/-! ### BWCODE -/

/-- The word of BWCODE: OPC, LEN and BITS in their places (R92, R94). -/
theorem encode_bwcode (len : BitVec 5) (bits : BitVec 16) :
    encode (.bwcode len bits) = 0x21000000#32 ||| (len.setWidth 32 <<< 16) ||| bits.setWidth 32 := by
  have hlen := len.isLt
  have hbits := bits.isLt
  have hopd : len.setWidth 32 <<< 16 ||| bits.setWidth 32 = (Instr.bwcode len bits).opd.setWidth 32 := by
    apply BitVec.eq_of_toNat_eq
    rw [toNat_shiftLeft_or (by rw [BitVec.toNat_setWidth]; omega) (by rw [BitVec.toNat_setWidth]; omega), Instr.opd,
      BitVec.toNat_setWidth _ (_ ||| _), toNat_codeOpd, BitVec.toNat_setWidth, BitVec.toNat_setWidth]
    omega
  have hopc : (Instr.bwcode len bits).opc.setWidth 32 <<< 24 = 0x21000000#32 := by rw [Instr.opc]; decide
  rw [encode, hopc, BitVec.or_assoc, hopd]

theorem bwcode_wf_iff {len : BitVec 5} {bits : BitVec 16} :
    (Instr.bwcode len bits).wf = true ↔ len.toNat ≤ 16 ∧ bits.toNat < 2 ^ len.toNat := by
  simp [Instr.wf]

theorem exec_bwcode_of_not_wf {len : BitVec 5} {bits : BitVec 16} (h : ¬(Instr.bwcode len bits).wf = true)
    (s : State) : exec (.bwcode len bits) s =
      .next (errorEntry (encode (.bwcode len bits)) .badOperand (encode (.bwcode len bits)) s) := by
  rw [exec, execBwcode, if_neg h, finish_raised]

theorem exec_bwcode_of_wf {len : BitVec 5} {bits : BitVec 16} (h : (Instr.bwcode len bits).wf = true) (s : State) :
    exec (.bwcode len bits) s = finish (encode (.bwcode len bits)) (writeBits false (codeOperand len bits) s) := by
  rw [exec, execBwcode, if_pos h]

end Sys2Proof.Machine

open Sys2Proof Sys2Proof.Machine

/-- Settles O28: BWCODE is the writing of its operand's bit string. -/
theorem bwcodeWritesItsBits : Obligations.BwcodeWritesItsBits := by
  intro s len bits word string
  have hword : encode (.bwcode len bits) = word := encode_bwcode len bits
  refine ⟨fun hillegal => ?_, fun hlen hbits hc => ?_⟩
  · rw [exec_bwcode_of_not_wf (mt bwcode_wf_iff.1 hillegal), hword]
  have hexec : exec (.bwcode len bits) s = finish word (writeBits false string s) :=
    hword ▸ exec_bwcode_of_wf (bwcode_wf_iff.2 ⟨hlen, hbits⟩) s
  rw [hexec]
  refine ⟨fun ha => ?_, fun k hk => ⟨fun rest ha => ?_, fun ha => ?_⟩⟩
  · rw [writeBits_ok false hc ha, finish_ok]
  · rw [writeBits_ioerr false hk ha, finish_raised]
  · obtain ⟨rest, e⟩ := writeBits_held false hk ha
    exact ⟨.write false (pushedByte string k s) rest, rfl, by rw [e, finish_held]⟩
end

section
/-! PROOFS. Counting: HIST over a stream of bytes (R111), and HCLR and HCNT from their start (R110, R112). -/

namespace Sys2Proof.Machine

section
variable {hist : Vector Word 256} {b : Byte} {bytes : List Byte}

/-! ### HIST after counting (R111) -/

/-- Counting one byte more in HIST. -/
def countedOne (hist : Vector Word 256) (b : Byte) : Vector Word 256 := hist.set b.toNat (countOf hist b + 1#32)

theorem toNat_eq_iff_eq_ofNat {i : Nat} (hi : i < 256) : b.toNat = i ↔ b = BitVec.ofNat 8 i := by
  rw [← BitVec.toNat_inj, BitVec.toNat_ofNat, Nat.mod_eq_of_lt hi]

theorem countedHist_nil (hist : Vector Word 256) : countedHist hist [] = hist := by
  ext i hi
  simp [countedHist]

theorem getElem_countedOne {i : Nat} (hi : i < 256) :
    (countedOne hist b)[i] = hist[i] + if b = BitVec.ofNat 8 i then 1#32 else 0#32 := by
  simp only [countedOne, Vector.getElem_set, toNat_eq_iff_eq_ofNat hi]
  split
  next h =>
    obtain rfl := (toNat_eq_iff_eq_ofNat hi).2 h
    rfl
  · rw [BitVec.add_zero]

theorem count_cons_ofNat (i : Nat) : (b :: bytes).count (BitVec.ofNat 8 i) =
    (if b = BitVec.ofNat 8 i then 1 else 0) + bytes.count (BitVec.ofNat 8 i) := by
  rw [List.count_cons, Nat.add_comm]
  simp

/-- The first byte counted, then the others. -/
theorem countedHist_cons : countedHist hist (b :: bytes) = countedHist (countedOne hist b) bytes := by
  refine Vector.ext fun i hi => ?_
  simp only [countedHist, Vector.getElem_ofFn, getElem_countedOne hi, count_cons_ofNat, BitVec.ofNat_add,
    BitVec.add_assoc]
  split <;> rfl

/-- What fits leaves room for its first byte. -/
theorem countOf_ne_of_countsFit (h : countsFit hist (b :: bytes)) : countOf hist b ≠ 0xFFFFFFFF#32 := by
  intro hfull
  have hb := h ⟨b.toNat, b.isLt⟩
  have hnat : hist[b.toNat].toNat = 2 ^ 32 - 1 := by
    rw [countOf] at hfull
    rw [hfull]
    rfl
  simp only [BitVec.ofNat_toNat, BitVec.setWidth_eq, List.count_cons_self, hnat] at hb
  omega

/-- What fits still fits after its first byte. -/
theorem countsFit_countedOne (h : countsFit hist (b :: bytes)) : countsFit (countedOne hist b) bytes := by
  intro i
  have hi := h i
  have hone : (if b = BitVec.ofNat 8 i.val then 1#32 else 0#32).toNat = if b = BitVec.ofNat 8 i.val then 1 else 0 := by
    split <;> rfl
  rw [count_cons_ofNat] at hi
  rw [getElem_countedOne i.isLt, BitVec.toNat_add, hone, Nat.mod_eq_of_lt (by omega)]
  omega

/-! ### HCNT (R112) -/

/-- HCNT's loop counts the bytes that fit, then goes on with what follows them. -/
theorem hcntLoop_asItems {s : State} {q : List InItem} (hin : s.input = asItems bytes ++ q)
    (hfit : countsFit s.hist bytes) :
    hcntLoop s.input s = hcntLoop q { s with hist := countedHist s.hist bytes, input := q } := by
  induction bytes generalizing s with
  | nil =>
    obtain rfl : s.input = q := hin
    rw [countedHist_nil]
  | cons b bytes ih =>
    rw [hin]
    refine (hcntLoop_byte b (asItems bytes ++ q) s).trans ?_
    rcases countByte_cases b (s.setInput (asItems bytes ++ q)) with ⟨hfull, -⟩ | ⟨-, e⟩
    · exact absurd hfull (countOf_ne_of_countsFit hfit)
    · rw [e, Run.andThen_ok, countedHist_cons]
      exact ih rfl (countsFit_countedOne hfit)

end

/-- A command has changed HIST, the valid bits with it (R39), and has left the items `q` queued. -/
def histChanged (hist : Vector Word 256) (q : List InItem) (s : State) : State :=
  { s with treeValid := false, codesValid := false, hist := hist, input := q }

section
variable {s : State} {bytes : List Byte} {q : List InItem}

/-- HCNT counts the bytes that fit, then goes on with what follows them. -/
theorem exec_hcnt_asItems (hin : s.input = asItems bytes ++ q) (hfit : countsFit s.hist bytes) :
    exec .hcnt s = finish 0x02000000#32 (hcntLoop q (histChanged (countedHist s.hist bytes) q s)) := by
  have hloop := hcntLoop_asItems (s := s.invalidate) hin hfit
  have hword : encode .hcnt = 0x02000000#32 := by decide
  rw [exec, execHcnt, hloop, hword]
  rfl

theorem exec_hcnt_eos (hin : s.input = asItems bytes ++ .eos :: q) (hfit : countsFit s.hist bytes) :
    exec .hcnt s = .next (complete (histChanged (countedHist s.hist bytes) q s)) :=
  exec_hcnt_asItems hin hfit

end

/-- HCLR's whole next state (R110). -/
theorem exec_hclr (s : State) :
    exec .hclr s = .next (complete (histChanged (Vector.replicate 256 0#32) s.input s)) := rfl

/-! ### The sum of the counters (R30, R112) -/

/-- The occurrences of all byte values are the length. -/
theorem sum_count_ofNat (bytes : List Byte) : ∑ i : Fin 256, bytes.count (BitVec.ofNat 8 i.val) = bytes.length := by
  induction bytes with
  | nil => simp
  | cons b bytes ih =>
    have hone : ∑ i : Fin 256, (if b = BitVec.ofNat 8 i.val then 1 else 0) = 1 := by
      rw [Finset.sum_eq_single ⟨b.toNat, b.isLt⟩ (fun i _ hi => if_neg fun hb => hi (Fin.ext ?_)) (by simp)]
      · simp
      · exact ((toNat_eq_iff_eq_ofNat i.isLt).2 hb).symm
    simp only [count_cons_ofNat, Finset.sum_add_distrib, hone, ih, List.length_cons, Nat.add_comm]

theorem sum_countedHist_replicate {bytes : List Byte} (hfit : countsFit (Vector.replicate 256 0#32) bytes) :
    ((countedHist (Vector.replicate 256 0#32) bytes).toList.map BitVec.toNat).sum = bytes.length := by
  have hcount (i : Fin 256) : (0#32 + BitVec.ofNat 32 (bytes.count (BitVec.ofNat 8 i.val))).toNat =
      bytes.count (BitVec.ofNat 8 i.val) := by
    have hi := hfit i
    rw [Vector.getElem_replicate, BitVec.toNat_zero, Nat.zero_add] at hi
    rw [BitVec.zero_add, BitVec.toNat_ofNat, Nat.mod_eq_of_lt hi]
  rw [countedHist, Vector.toList_ofFn, List.map_ofFn, List.sum_ofFn, ← sum_count_ofNat bytes]
  exact Finset.sum_congr rfl fun i _ => by simpa using hcount i

end Sys2Proof.Machine

open Sys2Proof Sys2Proof.Machine

/-- Settles O13, by HCLR's whole next state. -/
theorem hclrClearsHistogram : Obligations.HclrClearsHistogram :=
  ⟨by decide, fun s => ⟨_, exec_hclr s, fun _ => Vector.getElem_replicate .., rfl⟩⟩

/-- Settles O14: HCNT comes to the item after the bytes that fit with them counted. -/
theorem hcntCountsTheStream : Obligations.HcntCountsTheStream := by
  refine ⟨by decide, fun s bytes q hfit => ⟨fun hin => exec_hcnt_eos hin hfit,
    fun hin => exec_hcnt_asItems hin hfit, fun b hin hfull => ?_, fun hin => ?_⟩⟩
  · rw [exec_hcnt_asItems hin hfit, hcntLoop_byte]
    rcases countByte_cases b ((histChanged (countedHist s.hist bytes) (.byte b :: q) s).setInput q) with
      ⟨-, e⟩ | ⟨hroom, -⟩
    · rw [e]; rfl
    · exact absurd hfull hroom
  · exact ⟨.hcnt, by simp, rfl, exec_hcnt_asItems (hin.trans (List.append_nil _).symm) hfit⟩

/-- Settles O15: from counters at 0, HIST is the occurrences of each byte value. -/
theorem histogramConservation : Obligations.HistogramConservation := by
  intro s u bytes q hin hfit hu
  obtain rfl := Host.Outcome.next.inj ((exec_hclr s).symm.trans hu)
  exact ⟨_, exec_hcnt_eos hin hfit, rfl, rfl, rfl, sum_countedHist_replicate hfit⟩

end

section
/-! PROOFS. FRQOUT writes the frequency table (R70, R113). -/

namespace Sys2Proof.Machine

/-! ### The table's bytes (R70) -/

/-- Byte `k` of the big-endian table is in the counter `k / 4`. -/
theorem getElem?_flatMap_bigEndian (words : List Word) (k : Nat) :
    (words.flatMap fun w =>
      [w.extractLsb' 24 8, w.extractLsb' 16 8, w.extractLsb' 8 8, w.extractLsb' 0 8])[k]? =
      words[k / 4]?.map fun w => w.extractLsb' (8 * (3 - k % 4)) 8 := by
  induction words generalizing k with
  | nil => simp
  | cons w words ih =>
    match k with
    | 0 | 1 | 2 | 3 => rfl
    | k + 4 => simpa using ih k

theorem getElem?_tableBytes (hist : Vector Word 256) (k : Fin 1024) :
    (tableBytes hist)[k.val]? = some (tableByte hist k) := by
  have hk : k.val / 4 < 256 := by omega
  rw [tableBytes, getElem?_flatMap_bigEndian, Vector.getElem?_toList, Vector.getElem?_eq_getElem hk]
  rfl

theorem length_tableBytes (hist : Vector Word 256) : (tableBytes hist).length = 1024 := by
  simp only [tableBytes, List.length_flatMap, List.length_cons, List.length_nil, List.map_const', List.sum_replicate,
    Vector.length_toList]
  rfl

/-- With `k` bytes of the table done, `n + 1` are left, the first of them byte `k`. -/
theorem exists_bytes_left {k : Nat} (hk : k < 1024) :
    ∃ n, n < 1024 ∧ k = 1023 - n ∧ 1024 - k = n + 1 ∧ 1024 - (k + 1) = n :=
  ⟨1023 - k, by omega, by omega, by omega, by omega⟩

/-! ### FRQOUT (R113) -/

section
variable {s : State} {k : Nat} {more : List Answer}

/-- FRQOUT has pushed the first `k` bytes of the table, and the answers `more` are left. -/
def tablePushed (k : Nat) (more : List Answer) (s : State) : State :=
  { s with output := s.output ++ (tableBytes s.hist).take k, answers := more }

/-- With `k` bytes written, FRQOUT's loop pushes byte `k`. -/
theorem frqoutFrom_push (hk : k < 1024) (s : State) : frqoutFrom (1024 - k) s =
    (pushByte (.frqout ⟨k, hk⟩) (tableByte s.hist ⟨k, hk⟩) s).andThen
      fun _ s => frqoutFrom (1024 - (k + 1)) s := by
  obtain ⟨n, hn, rfl, hleft, hnext⟩ := exists_bytes_left hk
  rw [hleft, hnext, frqoutFrom]

theorem tablePushed_deliver (hk : k < 1024) :
    (tablePushed k (.ok :: more) s).deliver [tableByte s.hist ⟨k, hk⟩] more = tablePushed (k + 1) more s := by
  simp [tablePushed, State.deliver, List.take_add_one, getElem?_tableBytes s.hist ⟨k, hk⟩]

/-- With its first `k` pushes answered OK, FRQOUT has `k` bytes of the table written and the others to write. -/
theorem frqoutFrom_replicate_ok (hk : k ≤ 1024) (ha : s.answers = List.replicate k .ok ++ more) :
    frqoutFrom 1024 s = frqoutFrom (1024 - k) (tablePushed k more s) := by
  induction k generalizing more with
  | zero =>
    obtain rfl : s.answers = more := ha
    simp [tablePushed]
  | succ k ih =>
    rw [List.replicate_succ', List.append_assoc, List.singleton_append] at ha
    rw [ih (by omega) ha, frqoutFrom_push hk, pushByte_ok (rest := more) rfl, Run.andThen_ok]
    exact congrArg _ (tablePushed_deliver hk)

theorem exec_frqout_replicate_ok (hk : k ≤ 1024) (ha : s.answers = List.replicate k .ok ++ more) :
    exec .frqout s = finish 0x03000000#32 (frqoutFrom (1024 - k) (tablePushed k more s)) := by
  have hword : encode .frqout = 0x03000000#32 := by decide
  rw [← frqoutFrom_replicate_ok hk ha, ← hword]
  rfl

/-- With `k` pushes answered OK, FRQOUT comes to the push of byte `k`. -/
theorem exec_frqout_push (hk : k < 1024) (ha : s.answers = List.replicate k .ok ++ more) :
    exec .frqout s = finish 0x03000000#32
      ((pushByte (.frqout ⟨k, hk⟩) (tableByte s.hist ⟨k, hk⟩) (tablePushed k more s)).andThen
        fun _ s => frqoutFrom (1024 - (k + 1)) s) := by
  rw [exec_frqout_replicate_ok (Nat.le_of_lt hk) ha, frqoutFrom_push hk]
  rfl

theorem tablePushed_all (s : State) : tablePushed 1024 (s.answers.drop 1024) s = delivered (tableBytes s.hist) s := by
  rw [tablePushed, delivered, List.take_of_length_le (length_tableBytes _).le, length_tableBytes]

end

end Sys2Proof.Machine

open Sys2Proof Sys2Proof.Machine

/-- Settles O16: FRQOUT comes to the push that is not answered OK, or to the end of the table. -/
theorem frqoutWritesTheTable : Obligations.FrqoutWritesTheTable := by
  refine ⟨by decide, fun s => ⟨fun hok => ?_, fun k hk => ⟨fun rest ha => ?_, fun ha => ?_⟩⟩⟩
  · have ha : s.answers = List.replicate 1024 .ok ++ s.answers.drop 1024 :=
      hok ▸ (List.take_append_drop 1024 s.answers).symm
    rw [exec_frqout_replicate_ok le_rfl ha, tablePushed_all]
    rfl
  · rw [exec_frqout_push hk ha, pushByte_ioerr (rest := rest) rfl]
    simp [tablePushed, State.deliver]
  · refine ⟨.frqout ⟨k, hk⟩, ?_, ?_⟩
    · simp [offeredByte, hold, List.getD_eq_getElem?_getD, getElem?_tableBytes s.hist ⟨k, hk⟩]
    · rw [exec_frqout_push hk (ha.trans (List.append_nil _).symm), pushByte_nil rfl]
      rfl
end

section
/-! PROOFS. FRQIN reads the frequency table (R70, R114). -/

namespace Sys2Proof.Machine

/-! ### Bytes as a counter (R70, R114) -/

/-- The bytes shifted into an empty counter, the first highest. -/
def shiftedIn (bytes : List Byte) : Word := bytes.foldl shiftInByte 0#32

theorem shiftedIn_append_one (bytes : List Byte) (b : Byte) :
    shiftedIn (bytes ++ [b]) = shiftInByte (shiftedIn bytes) b := by
  simp [shiftedIn]

/-- Shifting a byte in is exact while the counter's high byte is clear (R114). -/
theorem toNat_shiftInByte {v : Word} (hv : v.toNat < 2 ^ 24) (b : Byte) :
    (shiftInByte v b).toNat = v.toNat * 256 + b.toNat := by
  have hb : (b.setWidth 32).toNat = b.toNat := BitVec.toNat_setWidth_of_le (by decide)
  rw [shiftInByte, toNat_shiftLeft_or (by omega) (hb ▸ b.isLt), hb]
  rfl

theorem toNat_shiftedIn_four (a b c d : Byte) :
    (shiftedIn [a, b, c, d]).toNat = (a.toNat * 256 + b.toNat) * 65536 + c.toNat * 256 + d.toNat := by
  have ha : (shiftInByte 0#32 a).toNat = a.toNat := by simp [toNat_shiftInByte]
  have hb : (shiftInByte (shiftInByte 0#32 a) b).toNat = a.toNat * 256 + b.toNat := by
    rw [toNat_shiftInByte (by omega), ha]
  have hc : (shiftInByte (shiftInByte (shiftInByte 0#32 a) b) c).toNat =
      (a.toNat * 256 + b.toNat) * 256 + c.toNat := by
    rw [toNat_shiftInByte (by omega), hb]
  simp only [shiftedIn, List.foldl_cons, List.foldl_nil]
  rw [toNat_shiftInByte (by omega), hc]
  omega

/-! ### HIST while the table is loaded (R114) -/

section
variable {bytes : List Byte}

/-- The four bytes of counter `i`. -/
theorem take_four_drop {i : Nat} (h : 4 * i + 3 < bytes.length) : (bytes.drop (4 * i)).take 4 =
    [bytes.getD (4 * i) 0#8, bytes.getD (4 * i + 1) 0#8, bytes.getD (4 * i + 2) 0#8, bytes.getD (4 * i + 3) 0#8] := by
  rw [List.drop_eq_getElem_cons (by omega), List.drop_eq_getElem_cons (by omega),
    List.drop_eq_getElem_cons (by omega), List.drop_eq_getElem_cons h]
  iterate 4 rw [List.getD_eq_getElem _ _ (by omega)]
  rfl

/-- A counter whose four bytes arrived holds them shifted in. -/
theorem getElem_loadedHist (hist : Vector Word 256) {i : Nat} (hi : i < 256) : (loadedHist hist bytes)[i] =
    if 4 * i + 3 < bytes.length then shiftedIn ((bytes.drop (4 * i)).take 4) else hist[i] := by
  simp only [loadedHist, Vector.getElem_ofFn]
  split
  next h => rw [take_four_drop h, ← toNat_shiftedIn_four, BitVec.ofNat_toNat, BitVec.setWidth_eq]
  · rfl

/-- The bytes that have arrived of a counter not complete yet. -/
def inHand (bytes : List Byte) : List Byte := bytes.drop (4 * (bytes.length / 4))

/-- A byte that completes no counter. -/
theorem loadedHist_append_of_partial (hist : Vector Word 256) (h : bytes.length % 4 ≠ 3) (b : Byte) :
    loadedHist hist (bytes ++ [b]) = loadedHist hist bytes := by
  refine Vector.ext fun i hi => ?_
  have hlt : 4 * i + 3 < (bytes ++ [b]).length ↔ 4 * i + 3 < bytes.length := by
    rw [List.length_append, List.length_singleton]
    omega
  simp only [getElem_loadedHist, hlt]
  split
  next hl =>
    rw [List.drop_append_of_le_length (by omega), List.take_append_of_le_length (by rw [List.length_drop]; omega)]
  · rfl

/-- The byte that completes counter `j`. -/
theorem loadedHist_append_of_full (hist : Vector Word 256) {j : Nat} (hj : j < 256)
    (h : bytes.length = 4 * j + 3) (b : Byte) : loadedHist hist (bytes ++ [b]) =
      (loadedHist hist bytes).set j (shiftedIn (inHand bytes ++ [b])) hj := by
  have hlen : (bytes ++ [b]).length = 4 * j + 4 := by simp [h]
  refine Vector.ext fun i hi => ?_
  rw [Vector.getElem_set, getElem_loadedHist, getElem_loadedHist, hlen, h]
  rcases Nat.lt_trichotomy i j with hij | rfl | hij
  · rw [if_pos (by omega), if_neg (by omega), if_pos (by omega), List.drop_append_of_le_length (by omega),
      List.take_append_of_le_length (by rw [List.length_drop]; omega)]
  · rw [if_pos (by omega), if_pos rfl, inHand, h, show (4 * i + 3) / 4 = i by omega,
      List.drop_append_of_le_length (by omega), List.take_of_length_le (by simp [h])]
  · rw [if_neg (by omega), if_neg (by omega), if_neg (by omega)]

theorem inHand_append_of_partial (h : bytes.length % 4 ≠ 3) (b : Byte) :
    inHand (bytes ++ [b]) = inHand bytes ++ [b] := by
  rw [inHand, inHand, List.length_append, List.length_singleton,
    show (bytes.length + 1) / 4 = bytes.length / 4 by omega, List.drop_append_of_le_length (by omega)]

theorem inHand_append_of_full (h : bytes.length % 4 = 3) (b : Byte) : inHand (bytes ++ [b]) = [] := by
  rw [inHand, List.length_append, List.length_singleton]
  exact List.drop_of_length_le (by rw [List.length_append, List.length_singleton]; omega)

/-! ### FRQIN's loop -/

section
variable {k : Nat} (hk : k < 1024) (v : Word) {s : State} {q : List InItem}
include hk

/-- With `k` bytes read, FRQIN's loop pulls byte `k`. -/
theorem frqinFrom_nil (hi : s.input = []) : frqinFrom (1024 - k) v s = .held (.frqin ⟨k, hk⟩ v) s := by
  obtain ⟨n, hn, rfl, hleft, -⟩ := exists_bytes_left hk
  rw [hleft, frqinFrom, pull_nil hi, Run.andThen_held]

theorem frqinFrom_eos (hi : s.input = .eos :: q) :
    frqinFrom (1024 - k) v s = .raised .malformedHeader (BitVec.ofNat 32 k) (s.setInput q) := by
  obtain ⟨n, hn, rfl, hleft, -⟩ := exists_bytes_left hk
  rw [hleft, frqinFrom, pull_cons hi, Run.andThen_ok]

theorem frqinFrom_ioerr (hi : s.input = .ioerr :: q) :
    frqinFrom (1024 - k) v s = .raised .underlyingIo 0#32 (s.setInput q) := by
  obtain ⟨n, hn, rfl, hleft, -⟩ := exists_bytes_left hk
  rw [hleft, frqinFrom, pull_cons hi, Run.andThen_ok]

theorem frqinFrom_byte {b : Byte} (hi : s.input = .byte b :: q) : frqinFrom (1024 - k) v s =
    frqinFrom (1024 - (k + 1)) (if k % 4 = 3 then 0#32 else shiftInByte v b)
      (storeTableByte ⟨k, hk⟩ (shiftInByte v b) (s.setInput q)) := by
  obtain ⟨n, hn, rfl, hleft, hnext⟩ := exists_bytes_left hk
  rw [hleft, hnext, frqinFrom, pull_cons hi, Run.andThen_ok]

end

section
variable {s : State} {q : List InItem}

/-- The table byte after `bytes` stores the counter it completes (R114). -/
theorem storeTableByte_histChanged (hk : bytes.length < 1024) (hist : Vector Word 256) (b : Byte) :
    storeTableByte ⟨bytes.length, hk⟩ (shiftedIn (inHand bytes ++ [b])) (histChanged (loadedHist hist bytes) q s) =
      histChanged (loadedHist hist (bytes ++ [b])) q s := by
  unfold storeTableByte
  split
  next h =>
    have hj : (counterOf ⟨bytes.length, hk⟩).toNat = bytes.length / 4 := by
      simp only [counterOf, BitVec.toNat_ofNat]
      omega
    have hlen : bytes.length = 4 * (counterOf ⟨bytes.length, hk⟩).toNat + 3 := by
      rw [hj]
      simp only at h
      omega
    rw [loadedHist_append_of_full hist (BitVec.isLt _) hlen]
    rfl
  next h => rw [loadedHist_append_of_partial hist h]

theorem shiftedIn_inHand_append (b : Byte) : shiftedIn (inHand (bytes ++ [b])) =
    if bytes.length % 4 = 3 then 0#32 else shiftInByte (shiftedIn (inHand bytes)) b := by
  split
  next h => rw [inHand_append_of_full h]; rfl
  next h => rw [inHand_append_of_partial h, shiftedIn_append_one]

/-- FRQIN's loop loads the bytes queued, then goes on with what follows them. -/
theorem frqinFrom_asItems (hk : bytes.length ≤ 1024) (hin : s.input = asItems bytes ++ q) :
    frqinFrom 1024 0#32 s.invalidate = frqinFrom (1024 - bytes.length) (shiftedIn (inHand bytes))
      (histChanged (loadedHist s.hist bytes) q s) := by
  induction bytes using List.reverseRecOn generalizing q with
  | nil =>
    obtain rfl : s.input = q := hin
    have hload : loadedHist s.hist [] = s.hist := Vector.ext fun i hi => by simp [getElem_loadedHist]
    rw [hload]
    rfl
  | append_singleton bytes b ih =>
    have hlen : (bytes ++ [b]).length = bytes.length + 1 := by simp
    have hin' : s.input = asItems bytes ++ .byte b :: q := by simpa [asItems] using hin
    rw [hlen] at hk
    rw [ih (by omega) hin', frqinFrom_byte hk _ (q := q) rfl, hlen, shiftedIn_inHand_append,
      ← shiftedIn_append_one, ← storeTableByte_histChanged hk]
    rfl

/-- FRQIN loads the bytes queued, then goes on with what follows them. -/
theorem exec_frqin_asItems (hk : bytes.length ≤ 1024) (hin : s.input = asItems bytes ++ q) :
    exec .frqin s = finish 0x04000000#32 (frqinFrom (1024 - bytes.length) (shiftedIn (inHand bytes))
      (histChanged (loadedHist s.hist bytes) q s)) := by
  have hword : encode .frqin = 0x04000000#32 := by decide
  rw [← frqinFrom_asItems hk hin, ← hword]
  rfl

end

end

end Sys2Proof.Machine

open Sys2Proof Sys2Proof.Machine

/-- Settles O17: FRQIN comes to the item after the bytes queued, or to the end of the table. -/
theorem frqinReadsTheTable : Obligations.FrqinReadsTheTable := by
  refine ⟨by decide, fun s bytes q =>
    ⟨fun hlen hin => ?_, fun hlt hin => ?_, fun hlt hin => ?_, fun hlt hin => ?_⟩⟩
  · rw [exec_frqin_asItems hlen.le hin, hlen]
    rfl
  · rw [exec_frqin_asItems hlt.le hin, frqinFrom_eos hlt _ (q := q) rfl]
    rfl
  · rw [exec_frqin_asItems hlt.le hin, frqinFrom_ioerr hlt _ (q := q) rfl]
    rfl
  · refine ⟨.frqin ⟨bytes.length, hlt⟩ (shiftedIn (inHand bytes)), by simp, rfl, ?_⟩
    rw [exec_frqin_asItems hlt.le (hin.trans (List.append_nil _).symm), frqinFrom_nil hlt _ rfl]
    rfl
end

section
/-! PROOFS. What the histogram commands leave unchanged (R110 to R114). -/

namespace Sys2Proof.Machine

/-- The state `t` after the end of a command is the state `u` of its run but for what completion, error entry and a
wait write (R213, R215, R37), RESULT apart. -/
def endsIn (u t : State) : Prop :=
  ∃ b d e c x p g,
    t = { u with busy := b, done := d, err := e, errcode := c, errinfo := x, pending := p, progress := g }

theorem errorEntry_of_keepsResult {w : Word} (hw : clearsResult (opcOf w) = false) (c : ErrCode) (i : Word)
    (s : State) : errorEntry w c i s = complete { s with err := true, errcode := c, errinfo := i } := by
  simp [errorEntry, hw]

theorem endsIn_finish {w : Word} {r : Run Unit} {t : State} (hw : clearsResult (opcOf w) = false)
    (h : finish w r = .next t) : endsIn r.state t := by
  rcases finish_cases h with ⟨u, rfl, rfl⟩ | ⟨c, i, u, rfl, rfl⟩ | ⟨p, u, rfl, rfl⟩
  · exact ⟨_, _, u.err, u.errcode, u.errinfo, _, _, rfl⟩
  · rw [errorEntry_of_keepsResult hw]
    exact ⟨_, _, _, _, _, _, _, rfl⟩
  · exact ⟨u.busy, u.done, u.err, u.errcode, u.errinfo, u.pending, _, rfl⟩

/-- The fields a histogram command's run may change, and which of the commands may change which (R110 to R114). -/
theorem exec_histogram_state {s t : State} {i : Instr} (hi : i ∈ [.hclr, .hcnt, .frqout, .frqin])
    (h : exec i s = .next t) :
    ∃ hist tv cv inp out ans,
      endsIn { s with
        hist := hist, treeValid := tv, codesValid := cv, input := inp, output := out, answers := ans } t ∧
      (i ≠ .frqout → out = s.output ∧ ans = s.answers ∧ tv = false ∧ cv = false) ∧
      (i = .hclr → inp = s.input) ∧
      (i = .frqout → hist = s.hist ∧ inp = s.input ∧ tv = s.treeValid ∧ cv = s.codesValid) := by
  simp only [List.mem_cons, List.not_mem_nil, or_false] at hi
  rcases hi with rfl | rfl | rfl | rfl
  · exact ⟨_, _, _, s.input, s.output, s.answers, endsIn_finish (w := encode .hclr) (r := .ok () _) (by decide) h,
      fun _ => ⟨rfl, rfl, rfl, rfl⟩, fun _ => rfl, nofun⟩
  · obtain ⟨x, q, e⟩ := hcntLoop_state s.invalidate.input s.invalidate
    exact ⟨x, _, _, q, s.output, s.answers, e ▸ endsIn_finish (w := encode .hcnt) (by decide) h,
      fun _ => ⟨rfl, rfl, rfl, rfl⟩, nofun, nofun⟩
  · obtain ⟨o, a, e⟩ := frqoutFrom_state Config.tableBytes s
    exact ⟨s.hist, s.treeValid, s.codesValid, s.input, o, a, e ▸ endsIn_finish (w := encode .frqout) (by decide) h,
      fun hne => absurd rfl hne, nofun, fun _ => ⟨rfl, rfl, rfl, rfl⟩⟩
  · obtain ⟨x, q, e⟩ := frqinFrom_state Config.tableBytes 0#32 s.invalidate
    exact ⟨x, _, _, q, s.output, s.answers, e ▸ endsIn_finish (w := encode .frqin) (by decide) h,
      fun _ => ⟨rfl, rfl, rfl, rfl⟩, nofun, nofun⟩

end Sys2Proof.Machine

open Sys2Proof Sys2Proof.Machine

/-- Settles O41, by what a histogram command's run may change. -/
theorem frameOfHistogramCommands : Obligations.FrameOfHistogramCommands := by
  intro s t i hi h
  obtain ⟨hist, tv, cv, inp, out, ans, ⟨b, d, e, c, x, p, g, rfl⟩, hne, hclr, hout⟩ := exec_histogram_state hi h
  exact ⟨rfl, rfl, rfl, rfl, rfl, rfl, rfl, rfl, rfl, rfl, rfl, rfl, rfl, rfl, rfl, rfl, rfl, hne, hclr, hout⟩
end

section
/-! PROOFS. What stands in the NODE array BUILD makes: the leaves, then one node for each merge, the priority
structure in the order of R133 at every moment (R131 to R135). A finished tree `t` is held fixed, and each builder on
the way to it is read as a part of it. -/

namespace Sys2Proof.Machine

/-! ### The order of R133 -/

/-- What R133 orders the nodes by: the weight, then the sequence number. -/
def Tree.priority (t : Tree) (j : NodeIx) : ℕ ×ₗ ℕ := toLex ((t.nodeAt j).weight.toNat, j.val)

theorem comesBefore_iff {t : Tree} {a b : NodeIx} : comesBefore t a b ↔ t.priority a < t.priority b := by
  rw [comesBefore, Tree.priority, Tree.priority, Prod.Lex.toLex_lt_toLex, BitVec.lt_def, BitVec.toNat_inj]
  rfl

theorem comesBefore_trans {t : Tree} {a b c : NodeIx} (hab : comesBefore t a b) (hbc : comesBefore t b c) :
    comesBefore t a c := comesBefore_iff.2 ((comesBefore_iff.1 hab).trans (comesBefore_iff.1 hbc))

theorem ne_of_comesBefore {t : Tree} {a b : NodeIx} (h : comesBefore t a b) : a ≠ b := by
  rintro rfl
  exact lt_irrefl _ (comesBefore_iff.1 h)

theorem comesBefore_of_not {t : Tree} {a b : NodeIx} (hne : a ≠ b) (h : ¬comesBefore t a b) :
    comesBefore t b a := by
  rw [comesBefore_iff, not_lt] at *
  refine h.lt_of_ne fun he => hne (Fin.ext ?_)
  exact (congrArg (fun p => (ofLex p).2) he).symm

theorem precedes_iff {t : Tree} {node : Vector Node 511} {a b : NodeIx} (ha : t.nodeAt a = node[a.val])
    (hb : t.nodeAt b = node[b.val]) : precedes node a b = true ↔ comesBefore t a b := by
  simp [precedes, comesBefore, ha, hb]

/-- Insertion keeps the priority structure in its order. -/
theorem insertByPriority_sorted {t : Tree} {node : Vector Node 511} {j : NodeIx} {q : List NodeIx}
    (hnode : ∀ a ∈ j :: q, t.nodeAt a = node[a.val]) (hj : j ∉ q) (hs : q.Pairwise (comesBefore t)) :
    (insertByPriority node j q).Pairwise (comesBefore t) := by
  induction q with
  | nil => exact List.pairwise_singleton _ _
  | cons x q ih =>
    simp only [List.mem_cons, not_or, forall_eq_or_imp] at hnode hj
    obtain ⟨hnj, hnx, hnq⟩ := hnode
    obtain ⟨hx, hq⟩ := List.pairwise_cons.1 hs
    rw [insertByPriority]
    split
    next hjx =>
      have hjx := (precedes_iff hnj hnx).1 hjx
      have hjq (a : NodeIx) (ha : a ∈ q) : comesBefore t j a := comesBefore_trans hjx (hx a ha)
      exact List.pairwise_cons.2 ⟨List.forall_mem_cons.2 ⟨hjx, hjq⟩, hs⟩
    next hjx =>
      have hxj := comesBefore_of_not hj.1 fun h => hjx ((precedes_iff hnj hnx).2 h)
      refine List.pairwise_cons.2 ⟨fun a ha => ?_, ih (List.forall_mem_cons.2 ⟨hnj, hnq⟩) hj.2 hq⟩
      rcases List.mem_cons.1 ((insertByPriority_perm node j q).mem_iff.1 ha) with rfl | ha
      · exact hxj
      · exact hx a ha

/-! ### A builder as a part of the finished tree -/

theorem lt_or_eq_mk {m : NodeIx} {k : Nat} (hk : k < 511) (h : m.val < k + 1) : m.val < k ∨ m = ⟨k, hk⟩ :=
  (Nat.lt_succ_iff_lt_or_eq.1 h).imp_right Fin.ext

theorem Builder.insert_queue_perm_mk {b : Builder} (nd : Node) (hk : b.k < 511) :
    (b.insert nd).queue.Perm (⟨b.k, hk⟩ :: b.queue) := by
  have hix : Fin.ofNat 511 b.k = ⟨b.k, hk⟩ := Fin.ext (Nat.mod_eq_of_lt hk)
  exact hix ▸ b.insert_queue_perm nd

/-- The nodes the builder has made stand in the tree. -/
def Builder.PartOf (b : Builder) (t : Tree) : Prop := ∀ j : NodeIx, j.val < b.k → t.nodeAt j = b.node[j.val]

section
variable {t : Tree} {b : Builder} {nd : Node}

/-- A node once made is never changed. -/
theorem Builder.PartOf.of_insert (h : (b.insert nd).PartOf t) : b.PartOf t := fun j hj =>
  (h j (Nat.lt_succ_of_lt hj)).trans (b.insert_node_of_lt nd j hj)

theorem Builder.PartOf.nodeAt_insert (h : (b.insert nd).PartOf t) (hk : b.k < 511) : t.nodeAt ⟨b.k, hk⟩ = nd :=
  (h ⟨b.k, hk⟩ (Nat.lt_succ_self _)).trans (b.insert_node_self nd hk)

theorem Builder.PartOf.of_merge {x y : NodeIx} {rest : List NodeIx} (h : (b.merge x y rest).PartOf t) : b.PartOf t :=
  Builder.PartOf.of_insert (b := { b with queue := rest }) h

theorem Builder.mergeAll_of_two {x y : NodeIx} {rest : List NodeIx} (n : Nat) (he : b.queue = x :: y :: rest) :
    b.mergeAll (n + 1) = (b.merge x y rest).mergeAll n := by
  simp [Builder.mergeAll, he]

theorem Builder.PartOf.of_mergeAll (n : Nat) {b : Builder} (h : (b.mergeAll n).PartOf t) : b.PartOf t := by
  induction n generalizing b with
  | zero => exact h
  | succ n ih =>
    match he : b.queue with
    | [] | [_] => simpa [Builder.mergeAll, he] using h
    | x :: y :: rest => exact (ih (Builder.mergeAll_of_two n he ▸ h)).of_merge

theorem Builder.addLeaf_of_zero {hist : Vector Word 256} {sym : Byte} (h : countOf hist sym = 0#32) :
    b.addLeaf hist sym = b := if_pos h

theorem Builder.addLeaf_of_ne_zero {hist : Vector Word 256} {sym : Byte} (h : countOf hist sym ≠ 0#32) :
    b.addLeaf hist sym = b.insert (.leaf sym ((countOf hist sym).setWidth 40)) := if_neg h

theorem Builder.PartOf.of_foldl_addLeaf {hist : Vector Word 256} (syms : List Byte) {b : Builder}
    (h : (syms.foldl (Builder.addLeaf hist) b).PartOf t) : b.PartOf t := by
  induction syms generalizing b with
  | nil => exact h
  | cons sym syms ih =>
    by_cases h0 : countOf hist sym = 0#32
    · exact addLeaf_of_zero (b := b) h0 ▸ ih h
    · exact (addLeaf_of_ne_zero (b := b) h0 ▸ ih h).of_insert

end

theorem buildNodes_partOf (hist : Vector Word 256) : (buildNodes hist).1.PartOf (Tree.ofHist hist) := fun _ _ => rfl

/-- The NODE array BUILD leaves holds every leaf made at first. -/
theorem Builder.leaves_partOf (hist : Vector Word 256) : (Builder.leaves hist).PartOf (Tree.ofHist hist) := by
  have hb := buildNodes_partOf hist
  match he : (Builder.leaves hist).queue with
  | [] => simpa [buildNodes, he] using hb
  | [j] => exact Builder.PartOf.of_insert (by simpa [buildNodes, he, Builder.addOneChild] using hb)
  | x :: y :: rest => exact Builder.PartOf.of_mergeAll (rest.length + 2) (by simpa [buildNodes, he] using hb)

/-! ### The priority structure -/

/-- The builder's list is the priority structure of the tree at that moment, in the order of R133. -/
structure Builder.Structured (t : Tree) (b : Builder) : Prop where
  sorted   : b.queue.Pairwise (comesBefore t)
  mem_iff  : ∀ j, j ∈ b.queue ↔ inStructure t b.k j
  child_lt : ∀ m : NodeIx, m.val < b.k → ∀ c j, (t.nodeAt m).child c = some j → j.val < m.val

theorem Builder.blank_structured (t : Tree) : Builder.Structured t Builder.blank where
  sorted := List.Pairwise.nil
  mem_iff _ := iff_of_false (List.not_mem_nil) fun h => Nat.not_lt_zero _ h.1
  child_lt _ h := absurd h (Nat.not_lt_zero _)

/-- The node made last joins the priority structure and takes its children out of it (R134). -/
theorem inStructure_succ_iff {t : Tree} {k : Nat} (hk : k < 511)
    (hchild : ∀ m : NodeIx, m.val < k + 1 → ∀ c j, (t.nodeAt m).child c = some j → j.val < m.val)
    {j : NodeIx} :
    inStructure t (k + 1) j ↔
      j = ⟨k, hk⟩ ∨ inStructure t k j ∧ ∀ c, (t.nodeAt ⟨k, hk⟩).child c ≠ some j := by
  constructor
  · rintro ⟨hj, hfree⟩
    exact (lt_or_eq_mk hk hj).symm.imp_right fun hj =>
      ⟨⟨hj, fun m hm => hfree m (Nat.lt_succ_of_lt hm)⟩, hfree ⟨k, hk⟩ (Nat.lt_succ_self k)⟩
  · rintro (rfl | ⟨⟨hj, hfree⟩, hlast⟩)
    · exact ⟨Nat.lt_succ_self k, fun m hm c hc => Nat.not_lt.2 (Nat.le_of_lt_succ hm) (hchild m hm c _ hc)⟩
    · refine ⟨Nat.lt_succ_of_lt hj, fun m hm => ?_⟩
      rcases lt_or_eq_mk hk hm with hm | rfl
      · exact hfree m hm
      · exact hlast

/-- Making a node whose children are the nodes just taken out of the priority structure. -/
theorem Builder.Structured.insert {t : Tree} {b : Builder} {nd : Node} {taken rest : List NodeIx}
    (h : b.Structured t) (hq : b.queue = taken ++ rest) (hnd : ∀ j, j ∈ taken ↔ ∃ c, nd.child c = some j)
    (hk : b.k < 511) (hp : (Builder.insert { b with queue := rest } nd).PartOf t) :
    (Builder.insert { b with queue := rest } nd).Structured t := by
  obtain ⟨hs, hmem, hchild⟩ := h
  rw [hq] at hs hmem
  have hself : t.nodeAt ⟨b.k, hk⟩ = nd := hp.nodeAt_insert hk
  have hmade (j : NodeIx) (hj : j ∈ taken ++ rest) : j.val < b.k := ((hmem j).1 hj).1
  have hchild' : ∀ m : NodeIx, m.val < b.k + 1 → ∀ c j, (t.nodeAt m).child c = some j → j.val < m.val := by
    intro m hm c j hj
    rcases lt_or_eq_mk hk hm with hm | rfl
    · exact hchild m hm c j hj
    · exact hmade j (List.mem_append_left _ ((hnd j).2 ⟨c, hself ▸ hj⟩))
  obtain ⟨-, hsrest, hdisj⟩ := List.pairwise_append.1 hs
  refine ⟨insertByPriority_sorted (fun a ha => hp a ?_) (fun hnew => ?_) hsrest, fun j => ?_, hchild'⟩
  · rcases List.mem_cons.1 ha with rfl | ha
    · simp [Nat.mod_eq_of_lt hk]
    · exact Nat.lt_succ_of_lt (hmade a (List.mem_append_right _ ha))
  · exact absurd (hmade _ (List.mem_append_right _ hnew)) (by simp [Nat.mod_eq_of_lt hk])
  · have hrest : j ∈ rest ↔ j ∈ taken ++ rest ∧ j ∉ taken :=
      ⟨fun hj => ⟨List.mem_append_right _ hj, fun hj' => ne_of_comesBefore (hdisj j hj' j hj) rfl⟩,
        fun ⟨hj, hj'⟩ => (List.mem_append.1 hj).resolve_left hj'⟩
    rw [(Builder.insert_queue_perm_mk (b := { b with queue := rest }) nd hk).mem_iff, List.mem_cons, hrest, hmem,
      hnd, not_exists, Builder.insert_k, inStructure_succ_iff hk hchild', hself]

/-! ### The symbols and their paths below a node -/

/-- A bit put before the path to a leaf. -/
def prefixed (bit : Bool) (e : Byte × List Bool) : Byte × List Bool := (e.1, bit :: e.2)

/-- The leaves below a node whose every internal node has two children: their symbols, each with the path to it
(R136). -/
inductive Tree.Spans (t : Tree) : NodeIx → List (Byte × List Bool) → Prop where
  | leaf {j sym w} (h : t.nodeAt j = .leaf sym w) : Tree.Spans t j [(sym, [])]
  | join {j w l r cl cr} (h : t.nodeAt j = .internal w l (some r)) (hl : Tree.Spans t l cl)
      (hr : Tree.Spans t r cr) : Tree.Spans t j (cl.map (prefixed false) ++ cr.map (prefixed true))

/-- The leaves below the nodes of a list have the symbols `syms`, each once for its occurrences there. -/
def Tree.Covers (t : Tree) (q : List NodeIx) (syms : List Byte) : Prop :=
  ∃ codes, List.Forall₂ t.Spans q codes ∧ (codes.flatten.map Prod.fst).Perm syms

section
variable {t : Tree} {q q' : List NodeIx} {syms syms' : List Byte}

theorem Tree.Covers.perm (h : t.Covers q syms) (hq : q'.Perm q) (hs : syms.Perm syms') : t.Covers q' syms' := by
  obtain ⟨codes, hc, hp⟩ := h
  obtain ⟨codes', hc', hp'⟩ := List.perm_comp_forall₂ hq hc
  exact ⟨codes', hc', ((hp'.flatten.map _).trans hp).trans hs⟩

theorem Tree.Covers.cons_leaf {j : NodeIx} {sym : Byte} {w : Weight} (h : t.Covers q syms)
    (hj : t.nodeAt j = .leaf sym w) : t.Covers (j :: q) (sym :: syms) := by
  obtain ⟨codes, hc, hp⟩ := h
  exact ⟨_ :: codes, .cons (.leaf hj) hc, hp.cons sym⟩

theorem Tree.Covers.cons_join {j x y : NodeIx} {w : Weight} (h : t.Covers (x :: y :: q) syms)
    (hj : t.nodeAt j = .internal w x (some y)) : t.Covers (j :: q) syms := by
  obtain ⟨_, hxyq, hp⟩ := h
  obtain ⟨cx, _, hx, hyq, rfl⟩ := List.forall₂_cons_left_iff.1 hxyq
  obtain ⟨cy, codes, hy, hq, rfl⟩ := List.forall₂_cons_left_iff.1 hyq
  refine ⟨_ :: codes, .cons (.join hj hx hy) hq, ?_⟩
  simpa [prefixed, Function.comp_def] using hp

/-- One node whose leaves have the symbols. -/
theorem Tree.Covers.spans {j : NodeIx} (h : t.Covers [j] syms) :
    ∃ c, t.Spans j c ∧ (c.map Prod.fst).Perm syms := by
  obtain ⟨_, hall, hp⟩ := h
  obtain ⟨c, _, hj, hnil, rfl⟩ := List.forall₂_cons_left_iff.1 hall
  obtain rfl := List.forall₂_nil_left_iff.1 hnil
  exact ⟨c, hj, by simpa using hp⟩

end

/-! ### The leaves (R132) -/

/-- The builder has made the leaves of the symbols `done`, in their order, and nothing else. -/
structure Builder.LeavesOf (t : Tree) (hist : Vector Word 256) (done : List Byte) (b : Builder) : Prop where
  structured : b.Structured t
  covers     : t.Covers b.queue done
  k_eq       : b.k = done.length
  nodeAt_eq  : ∀ (j : NodeIx) (h : j.val < done.length),
    t.nodeAt j = .leaf done[j.val] ((countOf hist done[j.val]).setWidth 40)

theorem Builder.LeavesOf.insert {t : Tree} {hist : Vector Word 256} {done : List Byte} {b : Builder} {sym : Byte}
    (h : b.LeavesOf t hist done) (hk : b.k < 511)
    (hp : (b.insert (.leaf sym ((countOf hist sym).setWidth 40))).PartOf t) :
    (b.insert (.leaf sym ((countOf hist sym).setWidth 40))).LeavesOf t hist (done ++ [sym]) := by
  have hself := hp.nodeAt_insert hk
  refine ⟨h.structured.insert (taken := []) rfl (by simp [Node.child]) hk hp, ?_, by simp [h.k_eq], fun j hj => ?_⟩
  · exact (h.covers.cons_leaf hself).perm (Builder.insert_queue_perm_mk _ hk)
      (List.perm_append_singleton sym done).symm
  · rcases Nat.lt_succ_iff_lt_or_eq.1 (List.length_append ▸ hj) with hj | hj
    · simpa [List.getElem_append_left hj] using h.nodeAt_eq j hj
    · obtain rfl : j = ⟨b.k, hk⟩ := Fin.ext (hj.trans h.k_eq.symm)
      simpa [h.k_eq] using hself

theorem Builder.LeavesOf.foldl_addLeaf {t : Tree} {hist : Vector Word 256} (syms : List Byte) {done : List Byte}
    {b : Builder} (h : b.LeavesOf t hist done) (hk : b.k + syms.length < 511)
    (hp : (syms.foldl (Builder.addLeaf hist) b).PartOf t) :
    (syms.foldl (Builder.addLeaf hist) b).LeavesOf t hist
      (done ++ syms.filter fun sym => countOf hist sym != 0#32) := by
  induction syms generalizing b done with
  | nil => simpa using h
  | cons sym syms ih =>
    simp only [List.foldl_cons, List.length_cons] at hp hk ⊢
    by_cases h0 : countOf hist sym = 0#32
    · rw [Builder.addLeaf_of_zero h0] at hp ⊢
      simpa [h0] using ih h (by omega) hp
    · rw [Builder.addLeaf_of_ne_zero h0] at hp ⊢
      have hone := h.insert (by omega) (Builder.PartOf.of_foldl_addLeaf syms hp)
      simpa [h0] using ih hone (by rw [Builder.insert_k]; omega) hp

/-- What stands in the tree of HIST when the leaves are made. -/
theorem Builder.leaves_leavesOf (hist : Vector Word 256) :
    (Builder.leaves hist).LeavesOf (Tree.ofHist hist) hist (occurring hist) := by
  have hstart : Builder.blank.LeavesOf (Tree.ofHist hist) hist [] :=
    ⟨Builder.blank_structured _, ⟨[], .nil, .refl _⟩, rfl, fun _ h => absurd h (Nat.not_lt_zero _)⟩
  exact hstart.foldl_addLeaf symbols (by simp [Builder.blank, symbols]) (Builder.leaves_partOf hist)

/-! ### The merges (R134) -/

/-- Node `k` joins the two nodes that precede all others in the priority structure when it is made. -/
def Tree.JoinsTwoLightest (t : Tree) (k : NodeIx) : Prop :=
  ∃ a b : NodeIx, a ≠ b ∧ inStructure t k.val a ∧ inStructure t k.val b ∧
    t.nodeAt k = .internal ((t.nodeAt a).weight + (t.nodeAt b).weight) a (some b) ∧
    comesBefore t a b ∧ ∀ j : NodeIx, inStructure t k.val j → j ≠ a → j ≠ b → comesBefore t b j

/-- The builder is at the merges of `n` leaves with the symbols `syms`, or has made them. -/
structure Builder.Merging (t : Tree) (n : Nat) (syms : List Byte) (b : Builder) : Prop where
  structured : b.Structured t
  covers     : t.Covers b.queue syms
  size       : b.k + b.queue.length = 2 * n
  joins      : ∀ k : NodeIx, n ≤ k.val → k.val < b.k → t.JoinsTwoLightest k

theorem Builder.Merging.merge {t : Tree} {n : Nat} {syms : List Byte} {b : Builder} {x y : NodeIx}
    {rest : List NodeIx} (h : b.Merging t n syms) (he : b.queue = x :: y :: rest) (hk : b.k < 511)
    (hp : (b.merge x y rest).PartOf t) : (b.merge x y rest).Merging t n syms := by
  have hself := hp.nodeAt_insert hk
  have hpb : b.PartOf t := hp.of_merge
  obtain ⟨hst, hcov, hsize, hjoins⟩ := h
  refine ⟨hst.insert (taken := [x, y]) he (fun j => ?_) hk hp, ?_, ?_, fun k hnk hkk => ?_⟩
  · simp [Node.child, eq_comm]
  · exact ((he ▸ hcov).cons_join hself).perm
      (Builder.insert_queue_perm_mk (b := { b with queue := rest }) _ hk) (.refl _)
  · rw [Builder.merge_k, Builder.merge_queue_length]
    simp only [he, List.length_cons] at hsize
    omega
  · rcases lt_or_eq_mk hk hkk with hkk | rfl
    · exact hjoins k hnk hkk
    · have hin (j : NodeIx) : j ∈ x :: y :: rest ↔ inStructure t b.k j := he ▸ hst.mem_iff j
      have hs := he ▸ hst.sorted
      obtain ⟨hx, hyr⟩ := List.pairwise_cons.1 hs
      have hxy := hx y (by simp)
      have hinx := (hin x).1 (by simp)
      have hiny := (hin y).1 (by simp)
      refine ⟨x, y, ne_of_comesBefore hxy, hinx, hiny, ?_, hxy, fun j hj hjx hjy => ?_⟩
      · rw [hself, hpb x hinx.1, hpb y hiny.1]
      · exact (List.pairwise_cons.1 hyr).1 j (by simpa [hjx, hjy] using (hin j).2 hj)

theorem Builder.Merging.mergeAll {t : Tree} {n : Nat} {syms : List Byte} (fuel : Nat) {b : Builder}
    (hn : n ≤ 256) (h : b.Merging t n syms) (hp : (b.mergeAll fuel).PartOf t) :
    (b.mergeAll fuel).Merging t n syms := by
  induction fuel generalizing b with
  | zero => exact h
  | succ fuel ih =>
    match he : b.queue with
    | [] | [_] => simpa [Builder.mergeAll, he] using h
    | x :: y :: rest =>
      rw [Builder.mergeAll_of_two fuel he] at hp ⊢
      have hsize := h.size
      simp only [he, List.length_cons] at hsize
      exact ih (h.merge he (by omega) hp.of_mergeAll) hp

/-! ### The finished tree (R131, R135) -/

section
variable {hist : Vector Word 256}

theorem buildNodes_of_two (h : 2 ≤ (occurring hist).length) :
    buildNodes hist = ((Builder.leaves hist).mergeAll (occurring hist).length,
      ((Builder.leaves hist).mergeAll (occurring hist).length).queue.head?) := by
  obtain ⟨-, hlen, -, -⟩ := Builder.leaves_made hist
  rw [← hlen] at h
  simp only [buildNodes]
  split
  next he => simp [he] at h
  next he => simp [he] at h
  next => rw [hlen]

theorem buildNodes_of_one (h : (occurring hist).length = 1) :
    buildNodes hist = ((Builder.leaves hist).addOneChild, some 1) := by
  obtain ⟨-, hlen, -, -⟩ := Builder.leaves_made hist
  obtain ⟨j, he⟩ := List.length_eq_one_iff.1 (hlen.trans h)
  simp [buildNodes, he]

theorem buildNodes_of_none (h : occurring hist = []) : buildNodes hist = (Builder.leaves hist, none) := by
  obtain ⟨-, hlen, -, -⟩ := Builder.leaves_made hist
  have he := List.length_eq_zero_iff.1 (hlen.trans (List.length_eq_zero_iff.2 h))
  simp [buildNodes, he]

/-- With two symbols or more the merges end in one node, the last one made, over all the leaves (R135). -/
theorem Tree.ofHist_merged (h : 2 ≤ (occurring hist).length) :
    ∃ (b : Builder) (r : NodeIx), b.Merging (Tree.ofHist hist) (occurring hist).length (occurring hist) ∧
      b.queue = [r] ∧ r.val + 1 = b.k ∧ (Tree.ofHist hist).root = some r ∧
      (Tree.ofHist hist).nnodes = BitVec.ofNat 10 b.k := by
  obtain ⟨hmade, hlen, hk, -⟩ := Builder.leaves_made hist
  have hn := occurring_length_le hist
  have hl := Builder.leaves_leavesOf hist
  set b := (Builder.leaves hist).mergeAll (occurring hist).length
  have hbuild : buildNodes hist = (b, b.queue.head?) := buildNodes_of_two h
  have hp : b.PartOf (Tree.ofHist hist) := by simpa only [hbuild] using buildNodes_partOf hist
  obtain ⟨r, -, -, hr, -⟩ := Builder.mergeAll_root (occurring hist).length (Builder.leaves hist)
    (hlen ▸ h) hlen.le (by omega) hmade
  have hm : b.Merging (Tree.ofHist hist) (occurring hist).length (occurring hist) :=
    Builder.Merging.mergeAll _ hn ⟨hl.structured, hl.covers, by omega, by omega⟩ hp
  have hsize := hm.size
  rw [hr, List.length_singleton] at hsize
  have hlast : inStructure (Tree.ofHist hist) b.k ⟨b.k - 1, by omega⟩ := by
    refine ⟨Nat.sub_lt (by omega) Nat.one_pos, fun m hm' c hc => ?_⟩
    have hlt : b.k - 1 < m.val := hm.structured.child_lt m hm' c _ hc
    omega
  obtain rfl : (⟨b.k - 1, by omega⟩ : NodeIx) = r :=
    List.mem_singleton.1 (hr ▸ (hm.structured.mem_iff _).2 hlast)
  exact ⟨b, _, hm, hr, Nat.sub_add_cancel (by omega), by simp [Tree.ofHist, hbuild, show b.queue = _ from hr],
    by simp [Tree.ofHist, hbuild]⟩

/-- The tree of one symbol (R131). -/
theorem Tree.ofHist_one {sym : Byte} (h : occurring hist = [sym]) :
    let w := (countOf hist sym).setWidth 40
    (Tree.ofHist hist).nodeAt 0 = .leaf sym w ∧ (Tree.ofHist hist).nodeAt 1 = .internal w 0 none ∧
      (Tree.ofHist hist).nnodes = 2#10 ∧ (Tree.ofHist hist).root = some 1 := by
  have hbuild := buildNodes_of_one (hist := hist) (by rw [h]; rfl)
  have hl := Builder.leaves_leavesOf hist
  rw [h] at hl
  have hk : (Builder.leaves hist).k = 1 := hl.k_eq
  have hleaf := hl.nodeAt_eq 0 Nat.one_pos
  have hp : (Builder.leaves hist).addOneChild.PartOf (Tree.ofHist hist) := by
    simpa only [hbuild] using buildNodes_partOf hist
  have hroot := hp.nodeAt_insert (by omega)
  have hnode : ((Builder.leaves hist).node[0]).weight = (countOf hist sym).setWidth 40 :=
    congrArg Node.weight ((Builder.leaves_partOf hist 0 (by simp [hk])).symm.trans hleaf)
  simp only [hk, hnode] at hroot
  exact ⟨hleaf, hroot, by simp [Tree.ofHist, hbuild, Builder.addOneChild, hk], by simp [Tree.ofHist, hbuild]⟩

end

end Sys2Proof.Machine

open Sys2Proof Sys2Proof.Machine

/-- Settles O19: the builder's cases for no leaf and for one. -/
theorem treesOfZeroAndOneSymbol : Obligations.TreesOfZeroAndOneSymbol := by
  refine ⟨fun hist h => ⟨?_, Tree.ofHist_root_of_not_occurring h⟩, fun hist sym => Tree.ofHist_one⟩
  have hk : (Builder.leaves hist).k = 0 := (Builder.leaves_leavesOf hist).k_eq.trans (by rw [h]; rfl)
  simp [Tree.ofHist, buildNodes_of_none h, hk]

/-- Settles O20: the leaves are made first, and no node once made is changed. -/
theorem leavesInSymbolOrder : Obligations.LeavesInSymbolOrder := fun hist =>
  (Builder.leaves_leavesOf hist).nodeAt_eq

/-- Settles O21: the builder's list is the priority structure at every merge, so its first two nodes are the two that
precede all others. -/
theorem mergesTakeTheTwoLightest : Obligations.MergesTakeTheTwoLightest := by
  intro hist h
  have hn := occurring_length_le hist
  obtain ⟨b, r, hm, hq, hr, hroot, hnodes⟩ := Tree.ofHist_merged h
  have hsize := hm.size
  rw [hq, List.length_singleton] at hsize
  refine ⟨?_, ⟨r, hroot, by omega⟩, fun k hnk hk => hm.joins k hnk (by omega)⟩
  rw [hnodes, BitVec.toNat_ofNat, Nat.mod_eq_of_lt (by omega)]
  omega


end

section
/-! PROOFS. BUILD and GENCODES as commands: what they record and what they leave unchanged (R140, R141). -/

namespace Sys2Proof.Machine

section
variable {hist : Vector Word 256}

/-! ### The summary BUILD records (R140) -/

theorem map_countOf_symbols (hist : Vector Word 256) :
    symbols.map (fun sym => (countOf hist sym).toNat) = hist.toList.map BitVec.toNat := by
  refine List.ext_getElem (by simp [symbols]) fun i hi _ => ?_
  have hi : i < 256 := by simpa [symbols] using hi
  simp [symbols, countOf, Nat.mod_eq_of_lt hi]

/-- While the counters of `syms` are added up the 40 bits are enough. -/
theorem toNat_foldl_countOf (syms : List Byte) (t : Weight) (h : t.toNat + syms.length * (2 ^ 32 - 1) < 2 ^ 40) :
    (syms.foldl (fun t sym => t + (countOf hist sym).setWidth 40) t).toNat =
      t.toNat + (syms.map fun sym => (countOf hist sym).toNat).sum := by
  induction syms generalizing t with
  | nil => rfl
  | cons sym syms ih =>
    have hc : (countOf hist sym).toNat < 2 ^ 32 := (countOf hist sym).isLt
    rw [List.length_cons] at h
    have hadd : (t + (countOf hist sym).setWidth 40).toNat = t.toNat + (countOf hist sym).toNat := by
      rw [BitVec.toNat_add, BitVec.toNat_setWidth, Nat.mod_eq_of_lt (a := (countOf hist sym).toNat) (by omega),
        Nat.mod_eq_of_lt (by omega)]
    rw [List.foldl_cons, ih _ (by omega), hadd, List.map_cons, List.sum_cons, Nat.add_assoc]

theorem Tree.ofHist_total_toNat (hist : Vector Word 256) :
    (Tree.ofHist hist).total.toNat = (hist.toList.map BitVec.toNat).sum := by
  have htotal : histTotal hist = symbols.foldl (fun t sym => t + (countOf hist sym).setWidth 40) 0#40 := by
    simp only [histTotal, countOf]
  rw [Tree.ofHist, htotal, toNat_foldl_countOf symbols 0#40 (by simp [symbols]), map_countOf_symbols,
    BitVec.toNat_zero, Nat.zero_add]

theorem Tree.ofHist_ndist_toNat (hist : Vector Word 256) :
    (Tree.ofHist hist).ndist.toNat = (occurring hist).length :=
  Nat.mod_eq_of_lt (lt_of_le_of_lt (occurring_length_le hist) (by decide))

end

/-! ### What the two commands leave unchanged -/

theorem exec_gencodes (s : State) : exec .gencodes s = finish (encode .gencodes)
    (if s.treeValid then .ok () { s with code := codesOf s.tree, codesValid := true }
     else .raised .noTree (encode .gencodes) s) := rfl

/-- The fields a tree command's run may change, and which of the two may change which. -/
theorem exec_tree_state {s t : State} {i : Instr} (hi : i ∈ [.build, .gencodes]) (h : exec i s = .next t) :
    ∃ tree tv code cv,
      endsIn { s with tree := tree, treeValid := tv, code := code, codesValid := cv } t ∧
      (i = .build → code = s.code) ∧ (i = .gencodes → tree = s.tree ∧ tv = s.treeValid) := by
  simp only [List.mem_cons, List.not_mem_nil, or_false] at hi
  rcases hi with rfl | rfl
  · exact ⟨_, _, s.code, _, endsIn_finish (w := encode .build) (r := .ok () _) (by decide) h, fun _ => rfl, nofun⟩
  · have he := endsIn_finish (by decide) ((exec_gencodes s).symm.trans h)
    by_cases hv : s.treeValid = true
    · rw [if_pos hv] at he
      exact ⟨s.tree, s.treeValid, _, _, he, nofun, fun _ => ⟨rfl, rfl⟩⟩
    · rw [if_neg hv] at he
      exact ⟨s.tree, s.treeValid, s.code, s.codesValid, he, nofun, fun _ => ⟨rfl, rfl⟩⟩

end Sys2Proof.Machine

open Sys2Proof Sys2Proof.Machine

/-- Settles O18: the sum of 256 counters of 32 bits does not wrap in 40. -/
theorem buildAndGencodesRecord : Obligations.BuildAndGencodesRecord :=
  ⟨by decide, fun _ => rfl, fun hist => ⟨Tree.ofHist_ndist_toNat hist, Tree.ofHist_total_toNat hist⟩, by decide,
    fun s h => by rw [exec_gencodes, if_pos h, finish_ok]⟩

/-- Settles O42, by what a tree command's run may change. -/
theorem frameOfTreeCommands : Obligations.FrameOfTreeCommands := by
  intro s t i hi h
  obtain ⟨tree, tv, code, cv, ⟨b, d, e, c, x, p, g, rfl⟩, hbuild, hgen⟩ := exec_tree_state hi h
  exact ⟨rfl, rfl, rfl, rfl, rfl, rfl, rfl, rfl, rfl, rfl, rfl, rfl, rfl, rfl, rfl, rfl, rfl, rfl, rfl, hbuild, hgen⟩
end

section
/-! PROOFS. The code table GENCODES makes of a tree of BUILD: the paths to the leaves, read back by the walk of R172
(R136, R137, R172). -/

namespace Sys2Proof.Machine

/-- The table with the paths of `codes` recorded, each below the path `p` (R136). -/
def recordPaths (p : List Bool) (codes : List (Byte × List Bool)) (table : Vector (List Bool) 256) :
    Vector (List Bool) 256 :=
  codes.foldl (fun table e => table.set e.1.toNat (p ++ e.2) e.1.isLt) table

section
variable {p : List Bool} {codes : List (Byte × List Bool)} {table : Vector (List Bool) 256}

theorem recordPaths_append (codes' : List (Byte × List Bool)) :
    recordPaths p (codes ++ codes') table = recordPaths p codes' (recordPaths p codes table) := List.foldl_append

theorem recordPaths_map_prefixed (bit : Bool) :
    recordPaths p (codes.map (prefixed bit)) table = recordPaths (p ++ [bit]) codes table := by
  simp [recordPaths, List.foldl_map, prefixed]

/-- A symbol that is not recorded keeps its entry. -/
theorem getElem_recordPaths_of_not_mem {sym : Byte} (h : sym ∉ codes.map Prod.fst) :
    (recordPaths p codes table)[sym.toNat] = table[sym.toNat] := by
  induction codes generalizing table with
  | nil => rfl
  | cons e codes ih =>
    simp only [List.map_cons, List.mem_cons, not_or] at h
    exact (ih h.2).trans (Vector.getElem_set_ne _ _ fun he => h.1 (BitVec.eq_of_toNat_eq he).symm)

/-- A symbol recorded once has its path. -/
theorem getElem_recordPaths_of_mem {sym : Byte} {q : List Bool} (hn : (codes.map Prod.fst).Nodup)
    (h : (sym, q) ∈ codes) : (recordPaths p codes table)[sym.toNat] = p ++ q := by
  induction codes generalizing table with
  | nil => exact absurd h List.not_mem_nil
  | cons e codes ih =>
    obtain ⟨he, hn⟩ := List.nodup_cons.1 hn
    rcases List.mem_cons.1 h with rfl | h
    · exact (getElem_recordPaths_of_not_mem he).trans (Vector.getElem_set_self _)
    · exact ih hn h

end

/-! ### The walk of GENCODES (R141) -/

/-- The walk below a node records the path of each leaf there, in one round for each node there. -/
theorem Tree.Spans.walkCodes {t : Tree} {j : NodeIx} {c : List (Byte × List Bool)} (h : t.Spans j c) :
    ∃ m, m + 1 = 2 * c.length ∧ ∀ n p stack table,
      walkCodes t (n + m) ((j, p) :: stack) table = walkCodes t n stack (recordPaths p c table) := by
  induction h with
  | leaf hj => exact ⟨1, rfl, fun n p stack table => by simp [Machine.walkCodes, hj, recordPaths]⟩
  | join hj _ _ ihl ihr =>
    obtain ⟨ml, hml, hl⟩ := ihl
    obtain ⟨mr, hmr, hr⟩ := ihr
    refine ⟨mr + ml + 1, by simp only [List.length_append, List.length_map]; omega, fun n p stack table => ?_⟩
    rw [recordPaths_append, recordPaths_map_prefixed, recordPaths_map_prefixed, ← hr,
      ← hl, ← Nat.add_assoc, ← Nat.add_assoc]
    simp [Machine.walkCodes, hj]

theorem Tree.Spans.length_pos {t : Tree} {j : NodeIx} {c : List (Byte × List Bool)} (h : t.Spans j c) :
    0 < c.length := by
  obtain ⟨m, hm, -⟩ := h.walkCodes
  omega

/-! ### Reading a path (R172) -/

/-- A path below a node is one below its left or its right child, the bit that leads there put before it. -/
theorem mem_prefixed_append {sym : Byte} {q : List Bool} {cl cr : List (Byte × List Bool)}
    (h : (sym, q) ∈ cl.map (prefixed false) ++ cr.map (prefixed true)) :
    (∃ q', q = false :: q' ∧ (sym, q') ∈ cl) ∨ ∃ q', q = true :: q' ∧ (sym, q') ∈ cr := by
  rcases List.mem_append.1 h with h | h
  all_goals
    obtain ⟨⟨_, q'⟩, hq', he⟩ := List.mem_map.1 h
    obtain ⟨rfl, rfl⟩ := Prod.mk.inj he
  · exact .inl ⟨q', rfl, hq'⟩
  · exact .inr ⟨q', rfl, hq'⟩

section
variable {t : Tree} {j : NodeIx} {c : List (Byte × List Bool)} {sym : Byte} {q : List Bool}

/-- From a node's parent the path to a leaf below the node reads as that leaf's symbol. -/
theorem Tree.Spans.readSymbol (h : t.Spans j c) (hq : (sym, q) ∈ c) {cur : NodeIx} {bit : Bool}
    (hcur : (t.nodeAt cur).child bit = some j) (rest : List Bool) :
    t.readSymbol cur (bit :: q ++ rest) = some (sym, rest) := by
  induction h generalizing cur bit q with
  | leaf hj =>
    obtain ⟨rfl, rfl⟩ := Prod.mk.inj (List.mem_singleton.1 hq)
    simp [Tree.readSymbol, hcur, hj]
  | @join j w l r cl cr hj _ _ ihl ihr =>
    have hstep (bits : List Bool) : t.readSymbol cur (bit :: bits) = t.readSymbol j bits := by
      simp [Tree.readSymbol, hcur, hj]
    rcases mem_prefixed_append hq with ⟨q', rfl, hq'⟩ | ⟨q', rfl, hq'⟩
    · exact (hstep _).trans (ihl hq' (by rw [hj]; rfl))
    · exact (hstep _).trans (ihr hq' (by rw [hj]; rfl))

/-- No path is longer than the number of the other leaves. -/
theorem Tree.Spans.length_lt (h : t.Spans j c) (hq : (sym, q) ∈ c) : q.length < c.length := by
  induction h generalizing q with
  | leaf hj =>
    obtain ⟨rfl, rfl⟩ := Prod.mk.inj (List.mem_singleton.1 hq)
    exact Nat.one_pos
  | join _ hl hr ihl ihr =>
    have hlpos := hl.length_pos
    have hrpos := hr.length_pos
    rw [List.length_append, List.length_map, List.length_map]
    rcases mem_prefixed_append hq with ⟨q', rfl, hq'⟩ | ⟨q', rfl, hq'⟩
    · have := ihl hq'
      rw [List.length_cons]
      omega
    · have := ihr hq'
      rw [List.length_cons]
      omega

end

/-! ### The code table of a tree of BUILD -/

/-- The code table records `codes`, and each of them reads back from the root `r` as its symbol; no code is empty or
longer than the number of the other codes, but for the 1 bit of an only code (R136). -/
structure Tree.CodedBy (t : Tree) (r : NodeIx) (codes : List (Byte × List Bool)) : Prop where
  root     : t.root = some r
  recorded : codesOf t = recordPaths [] codes (Vector.replicate 256 [])
  ne_nil   : ∀ sym q, (sym, q) ∈ codes → q ≠ []
  reads    : ∀ sym q, (sym, q) ∈ codes → ∀ rest, t.readSymbol r (q ++ rest) = some (sym, rest)
  length   : ∀ sym q, (sym, q) ∈ codes → q.length ≤ max 1 (codes.length - 1)

/-- The table of a root over two leaves or more, whose every internal node has two children. -/
theorem Tree.Spans.codedBy {t : Tree} {r : NodeIx} {c : List (Byte × List Bool)} (h : t.Spans r c)
    (hr : t.root = some r) (h2 : 2 ≤ c.length) (h256 : c.length ≤ 256) : t.CodedBy r c := by
  have hrec : codesOf t = recordPaths [] c (Vector.replicate 256 []) := by
    obtain ⟨m, hm, hw⟩ := h.walkCodes
    obtain ⟨n, hn⟩ : ∃ n, Config.maxNodes = n + m := ⟨511 - m, by simp only [Config.maxNodes]; omega⟩
    rw [codesOf, hr]
    simp only [hn, hw]
    cases n <;> rfl
  have hlen (sym : Byte) (q : List Bool) (hq : (sym, q) ∈ c) : q.length ≤ max 1 (c.length - 1) := by
    have := h.length_lt hq
    omega
  cases h with
  | leaf hj => exact absurd h2 (by simp)
  | join hj hl hrr =>
    refine ⟨hr, hrec, fun sym q hq => ?_, fun sym q hq rest => ?_, hlen⟩
    · rcases mem_prefixed_append hq with ⟨q', rfl, -⟩ | ⟨q', rfl, -⟩ <;> exact List.cons_ne_nil _ _
    · rcases mem_prefixed_append hq with ⟨q', rfl, hq'⟩ | ⟨q', rfl, hq'⟩
      · exact hl.readSymbol hq' (by rw [hj]; rfl) rest
      · exact hrr.readSymbol hq' (by rw [hj]; rfl) rest

section
variable {hist : Vector Word 256}

/-- The table of the one-symbol tree: the one code is 0 (R136). -/
theorem Tree.ofHist_one_codedBy {sym : Byte} (h : occurring hist = [sym]) :
    (Tree.ofHist hist).CodedBy 1 [(sym, [false])] := by
  obtain ⟨h0, h1, -, hroot⟩ := Tree.ofHist_one h
  have hrec : codesOf (Tree.ofHist hist) = recordPaths [] [(sym, [false])] (Vector.replicate 256 []) := by
    simp [codesOf, hroot, Config.maxNodes, walkCodes, h0, h1, recordPaths]
  refine ⟨hroot, hrec, ?_, ?_, ?_⟩ <;> rintro s q hq <;>
    obtain ⟨rfl, rfl⟩ := Prod.mk.inj (List.mem_singleton.1 hq)
  · exact List.cons_ne_nil _ _
  · exact (Tree.Spans.leaf h0).readSymbol (List.mem_singleton.2 rfl) (by rw [h1]; rfl)
  · exact le_max_left _ _

/-- With a symbol counted, the code table has one code for each symbol that occurs (R136, R137). -/
theorem Tree.ofHist_codedBy (h : occurring hist ≠ []) :
    ∃ r codes, (Tree.ofHist hist).CodedBy r codes ∧ (codes.map Prod.fst).Perm (occurring hist) := by
  rcases Nat.lt_or_ge (occurring hist).length 2 with h1 | h2
  · obtain ⟨sym, hsym⟩ := List.length_eq_one_iff.1
      (le_antisymm (Nat.le_of_lt_succ h1) (List.length_pos_iff.2 h))
    exact ⟨1, [(sym, [false])], Tree.ofHist_one_codedBy hsym, by rw [hsym]; exact .refl _⟩
  · obtain ⟨b, r, hm, hq, -, hroot, -⟩ := Tree.ofHist_merged h2
    obtain ⟨c, hspans, hperm⟩ := (hq ▸ hm.covers).spans
    have hlen : c.length = (occurring hist).length := by simpa using hperm.length_eq
    exact ⟨r, c, hspans.codedBy hroot (hlen ▸ h2) (hlen ▸ occurring_length_le hist), hperm⟩

/-! ### The code of one symbol -/

theorem mem_occurring {sym : Byte} : sym ∈ occurring hist ↔ countOf hist sym ≠ 0#32 := by
  have hall : sym ∈ symbols := List.mem_map.2 ⟨sym.toNat, List.mem_range.2 sym.isLt, by simp⟩
  simp [occurring, hall, countOf]

theorem nodup_symbols : symbols.Nodup := by
  refine List.Nodup.map_on (fun i hi j hj he => ?_) List.nodup_range
  have he := congrArg BitVec.toNat he
  rwa [BitVec.toNat_ofNat, BitVec.toNat_ofNat, Nat.mod_eq_of_lt (List.mem_range.1 hi),
    Nat.mod_eq_of_lt (List.mem_range.1 hj)] at he

theorem nodup_occurring (hist : Vector Word 256) : (occurring hist).Nodup := nodup_symbols.filter _

/-- A symbol that does not occur has no code (R136). -/
theorem Tree.codeOf_of_not_mem {sym : Byte} (h : sym ∉ occurring hist) : (Tree.ofHist hist).codeOf sym = [] := by
  have hempty : (Vector.replicate 256 ([] : List Bool))[sym.toNat]'sym.isLt = [] := Vector.getElem_replicate ..
  by_cases ho : occurring hist = []
  · simpa only [Tree.codeOf, codesOf, Tree.ofHist_root_of_not_occurring ho] using hempty
  · obtain ⟨r, codes, hc, hperm⟩ := Tree.ofHist_codedBy ho
    rw [Tree.codeOf, hc.recorded, getElem_recordPaths_of_not_mem fun hm => h (hperm.mem_iff.1 hm), hempty]

/-- The code of a symbol that occurs: it is not empty, its length is bounded, and it reads back from the root as its
symbol, whatever follows it (R136). -/
theorem Tree.codeOf_of_mem {sym : Byte} (h : sym ∈ occurring hist) :
    (Tree.ofHist hist).codeOf sym ≠ [] ∧
    ((Tree.ofHist hist).codeOf sym).length ≤ max 1 ((occurring hist).length - 1) ∧
    ∃ r, (Tree.ofHist hist).root = some r ∧
      ∀ rest, (Tree.ofHist hist).readSymbol r ((Tree.ofHist hist).codeOf sym ++ rest) = some (sym, rest) := by
  obtain ⟨r, codes, hc, hperm⟩ := Tree.ofHist_codedBy (List.ne_nil_of_mem h)
  obtain ⟨⟨_, q⟩, hq, rfl⟩ := List.mem_map.1 (hperm.mem_iff.2 h)
  have hlen : codes.length = (occurring hist).length := by simpa using hperm.length_eq
  rw [Tree.codeOf, hc.recorded, getElem_recordPaths_of_mem (hperm.nodup_iff.2 (nodup_occurring hist)) hq]
  exact ⟨hc.ne_nil _ q hq, hlen ▸ hc.length _ q hq, r, hc.root, hc.reads _ q hq⟩

/-- The codes of symbols that occur read back as the symbols (R184). -/
theorem Tree.readSymbols_codeOf (bytes : List Byte) (h : ∀ b ∈ bytes, b ∈ occurring hist) (padding : List Bool) :
    (Tree.ofHist hist).readSymbols bytes.length (bytes.flatMap (Tree.ofHist hist).codeOf ++ padding) =
      some (bytes, padding) := by
  induction bytes with
  | nil => rfl
  | cons b bytes ih =>
    obtain ⟨hb, hbytes⟩ := List.forall_mem_cons.1 h
    obtain ⟨-, -, r, hr, hread⟩ := Tree.codeOf_of_mem hb
    simp [Tree.readSymbols, hr, hread, ih hbytes]

/-- The bytes counted occur (R111). -/
theorem mem_occurring_countedHist {bytes : List Byte} (hfit : countsFit (Vector.replicate 256 0#32) bytes) {b : Byte}
    (hb : b ∈ bytes) : b ∈ occurring (countedHist (Vector.replicate 256 0#32) bytes) := by
  have hlt := hfit ⟨b.toNat, b.isLt⟩
  have hpos := List.count_pos_iff.2 hb
  simp only [Vector.getElem_replicate, BitVec.toNat_zero, Nat.zero_add, BitVec.ofNat_toNat,
    BitVec.setWidth_eq] at hlt
  rw [mem_occurring]
  intro h0
  have h0 := congrArg BitVec.toNat h0
  simp [countOf, countedHist] at h0
  omega

end

end Sys2Proof.Machine

open Sys2Proof Sys2Proof.Machine

/-- Settles O23, by the code of a symbol that occurs and of one that does not. -/
theorem codesArePathsToLeaves : Obligations.CodesArePathsToLeaves := by
  intro hist sym
  refine ⟨fun h0 => Tree.codeOf_of_not_mem fun hm => mem_occurring.1 hm h0, fun h => ?_⟩
  obtain ⟨hne, -, hread⟩ := Tree.codeOf_of_mem (mem_occurring.2 h)
  exact ⟨hne, hread⟩

/-- Settles O24: a path to a leaf is no longer than the number of the other leaves. -/
theorem codeLengthBounds : Obligations.CodeLengthBounds := by
  intro hist sym hsym
  obtain ⟨hne, hle, -⟩ := Tree.codeOf_of_mem hsym
  have hpos := List.length_pos_iff.2 hne
  exact ⟨hpos, fun h => by omega, fun h => by omega⟩

/-- Settles O25: bits that begin with both codes would read as both symbols. -/
theorem codesArePrefixFree : Obligations.CodesArePrefixFree := by
  rintro hist a b ha hb hne ⟨rest, he⟩
  obtain ⟨-, -, r, hr, hread⟩ := Tree.codeOf_of_mem ha
  obtain ⟨-, -, r', hr', hread'⟩ := Tree.codeOf_of_mem hb
  obtain rfl : r = r' := Option.some.inj (hr.symm.trans hr')
  have hboth : some (a, rest) = some (b, []) := by
    rw [← hread rest, he, ← hread' [], List.append_nil]
  exact hne (congrArg Prod.fst (Option.some.inj hboth))

/-- Settles O26: each code reads back as its symbol, whatever codes and padding follow it. -/
theorem codesOfAnyBytesDecodeToThem : Obligations.CodesOfAnyBytesDecodeToThem := by
  intro bytes padding hfit
  have htotal := (Tree.ofHist_total_toNat _).trans (sum_countedHist_replicate hfit)
  refine ⟨htotal, ?_⟩
  rw [htotal]
  exact Tree.readSymbols_codeOf bytes (fun b hb => mem_occurring_countedHist hfit hb) padding
end

section
/-! PROOFS. BWBIT and BWCLOSE: one push of the BitWriter, made with the writer emptied (R150, R151, R153, R155). -/

namespace Sys2Proof.Machine

/-! ### The push of a completed byte -/

/-- A command that ends with the push of `b` from the emptied writer: it waits, delivers `b`, or fails (R67, R150,
R151). -/
theorem finish_pushByte_emptied (w : Word) (p : Progress) (b : Byte) (s : State) :
    (s.answers = [] → finish w (pushByte p b (s.setWriter 0#8 0)) =
      .next { s with bwAcc := 0#8, bwNbits := 0, progress := p }) ∧
    (∀ rest, s.answers = .ok :: rest → finish w (pushByte p b (s.setWriter 0#8 0)) =
      .next (complete { s with bwAcc := 0#8, bwNbits := 0, output := s.output ++ [b], answers := rest })) ∧
    ∀ rest, s.answers = .ioerr :: rest → finish w (pushByte p b (s.setWriter 0#8 0)) =
      .next (errorEntry w .underlyingIo 1#32 { s with bwAcc := 0#8, bwNbits := 0, answers := rest }) := by
  refine ⟨fun ha => ?_, fun rest ha => ?_, fun rest ha => ?_⟩
  · rw [pushByte_nil (s := s.setWriter 0#8 0) ha]
    rfl
  · rw [pushByte_ok (s := s.setWriter 0#8 0) ha]
    rfl
  · rw [pushByte_ioerr (s := s.setWriter 0#8 0) ha, finish_raised, State.deliver, List.append_nil]
    rfl

/-! ### BWBIT -/

/-- The word of a command whose operand is a byte, forms BIT and SYM (R92). -/
theorem encode_of_byteOpd {i : Instr} {b : BitVec 8} {opcWord : Word} (hopc : i.opc.setWidth 32 <<< 24 = opcWord)
    (hopd : i.opd = b.setWidth 24) : encode i = opcWord ||| b.setWidth 32 := by
  have hb := b.isLt
  have hwide : (b.setWidth 24).setWidth 32 = b.setWidth 32 := BitVec.eq_of_toNat_eq (by
    simp only [BitVec.toNat_setWidth]
    omega)
  rw [encode, hopc, hopd, hwide]

theorem encode_bwbit (val : BitVec 8) : encode (.bwbit val) = 0x20000000#32 ||| val.setWidth 32 :=
  encode_of_byteOpd (by rw [Instr.opc]; decide) rfl

theorem bwbit_wf_iff {val : BitVec 8} : (Instr.bwbit val).wf = true ↔ val.toNat < 2 := by
  simp only [Instr.wf, Bool.or_eq_true, beq_iff_eq, ← BitVec.toNat_inj, BitVec.toNat_ofNat]
  omega

/-- Shifting a bit in is doubling and adding it, the high bit dropped (R150). -/
theorem shiftIn_eq_ofNat (acc : Byte) (b : Bool) : shiftIn acc b = BitVec.ofNat 8 (2 * acc.toNat + b.toNat) := by
  have hdisjoint : (acc <<< 1) &&& (BitVec.ofBool b).setWidth 8 = 0#8 := by
    ext i hi
    cases i <;> simp
  rw [shiftIn, ← BitVec.add_eq_or_of_and_eq_zero _ _ hdisjoint]
  apply BitVec.eq_of_toNat_eq
  cases b <;> simp [BitVec.toNat_shiftLeft, Nat.shiftLeft_eq, Nat.mul_comm]

theorem toNat_bitOperand {val : BitVec 8} (h : val.toNat < 2) : (bitOperand val).toNat = val.toNat := by
  rw [bitOperand, BitVec.getLsbD, Nat.toNat_testBit, Nat.pow_zero, Nat.div_one, Nat.mod_eq_of_lt h]

theorem exec_bwbit_of_not_wf {val : BitVec 8} (h : ¬(Instr.bwbit val).wf = true) (s : State) : exec (.bwbit val) s =
    .next (errorEntry (encode (.bwbit val)) .badOperand (encode (.bwbit val)) s) := by
  rw [exec, execBwbit, if_neg h, finish_raised]

theorem exec_bwbit_of_wf {val : BitVec 8} (h : (Instr.bwbit val).wf = true) (s : State) :
    exec (.bwbit val) s = finish (encode (.bwbit val)) (writeBit false [] (bitOperand val) s) := by
  rw [exec, execBwbit, if_pos h]
  exact congrArg _ (Run.andThen_done _)

/-! ### BWCLOSE -/

/-- The padded byte is the bits held, as a number, moved to the top of a byte (R151). -/
theorem padByte_eq_ofNat (acc : Byte) (n : Fin 8) : padByte acc n = BitVec.ofNat 8 (acc.toNat * 2 ^ (8 - n.val)) := by
  apply BitVec.eq_of_toNat_eq
  rw [padByte, BitVec.toNat_shiftLeft, Nat.shiftLeft_eq, BitVec.toNat_ofNat]

theorem encode_bwclose : encode .bwclose = 0x22000000#32 := by decide

theorem exec_bwclose_of_empty {s : State} (h : s.bwNbits = 0) : exec .bwclose s = .next (complete s) := by
  rw [exec, execBwclose, closeWriter, if_pos h, finish_ok]

theorem exec_bwclose_of_held {s : State} (h : s.bwNbits ≠ 0) : exec .bwclose s = finish 0x22000000#32
    (pushByte (.close (padByte s.bwAcc s.bwNbits)) (padByte s.bwAcc s.bwNbits) (s.setWriter 0#8 0)) := by
  rw [exec, execBwclose, closeWriter, if_neg h, encode_bwclose]

end Sys2Proof.Machine

open Sys2Proof Sys2Proof.Machine

/-- Settles O27: BWBIT is one WriteBit, which has two ends. -/
theorem bwbitWritesOneBit : Obligations.BwbitWritesOneBit := by
  refine ⟨by decide, by decide, fun s val => ⟨fun hillegal => ?_, fun hlegal => ?_⟩⟩
  · rw [exec_bwbit_of_not_wf (mt bwbit_wf_iff.1 (Nat.not_lt.2 hillegal)), encode_bwbit]
  rw [exec_bwbit_of_wf (bwbit_wf_iff.2 hlegal), encode_bwbit, ← toNat_bitOperand hlegal, ← shiftIn_eq_ofNat]
  rcases writeBit_cases false [] (bitOperand val) s with ⟨hn, e⟩ | ⟨h7, e⟩ <;> rw [e]
  · refine ⟨fun n hn' => ?_, fun h7 => ?_⟩
    · obtain rfl : n = ⟨s.bwNbits.val + 1, hn⟩ := Fin.ext hn'
      rfl
    · exact absurd hn (by simp [h7])
  · exact ⟨fun n hn' => absurd n.isLt (by simp [hn', h7]), fun _ => finish_pushByte_emptied _ _ _ s⟩

/-- Settles O29: BWCLOSE only completes, or ends with one push. -/
theorem bwcloseFlushesThePaddedByte : Obligations.BwcloseFlushesThePaddedByte := by
  refine ⟨encode_bwclose, fun s => ⟨exec_bwclose_of_empty, fun hheld => ?_⟩⟩
  rw [exec_bwclose_of_held hheld, ← padByte_eq_ofNat]
  exact finish_pushByte_emptied _ _ _ s
end

section
/-! PROOFS. The encoder: ENCB writes one code, ENC the codes of a stream of bytes, as one bit string (R152, R156,
R157). -/

namespace Sys2Proof.Machine

/-! ### One code -/

section
variable {s : State} {sym : Byte}

theorem encodeSymbol_of_empty (stream : Bool) (h : s.codeAt sym = []) :
    encodeSymbol stream sym s = .raised .noCode (sym.setWidth 32) s := if_pos h

theorem encodeSymbol_of_code (stream : Bool) (h : s.codeAt sym ≠ []) :
    encodeSymbol stream sym s = writeBits stream (s.codeAt sym) s := if_neg h

theorem encode_encb (sym : BitVec 8) : encode (.encb sym) = 0x23000000#32 ||| sym.setWidth 32 :=
  encode_of_byteOpd (by rw [Instr.opc]; decide) rfl

theorem exec_encb_of_codesValid (h : s.codesValid = true) (sym : BitVec 8) :
    exec (.encb sym) s = finish (0x23000000#32 ||| sym.setWidth 32) (encodeSymbol false sym s) := by
  rw [exec, execEncb, if_pos h, encode_encb]

/-! ### A bit string in two parts -/

theorem bitsPushes_le_append (x y : List Bool) (s : State) : bitsPushes x s ≤ bitsPushes (x ++ y) s :=
  Nat.div_le_div_right (by simp only [List.length_append]; omega)

theorem sinkAccepts_of_le {m n : Nat} (hmn : m ≤ n) (h : sinkAccepts n s) : sinkAccepts m s := by
  rw [sinkAccepts, ← Nat.min_eq_left hmn, ← List.take_take, h, List.take_replicate]

theorem sinkAccepts_of_replicate {k n : Nat} {more : List Answer} (ha : s.answers = List.replicate k .ok ++ more)
    (hn : n ≤ k) : sinkAccepts n s :=
  sinkAccepts_of_le hn (by rw [sinkAccepts, ha, List.take_left' List.length_replicate])

/-- A bit that is written without a wait or an error is written alike whatever bits are to follow it. -/
theorem writeBit_ok_rest {stream : Bool} {rest : List Bool} {b : Bool} {u : State}
    (h : writeBit stream rest b s = .ok () u) (rest' : List Bool) : writeBit stream rest' b s = .ok () u := by
  by_cases hn : s.bwNbits.val + 1 < 8
  · rwa [writeBit, dif_pos hn] at h ⊢
  · rw [writeBit, dif_neg hn] at h ⊢
    rcases pushByte_cases (.write stream (shiftIn s.bwAcc b) rest) (shiftIn s.bwAcc b) (s.setWriter 0#8 0) with
      ⟨-, e⟩ | ⟨more, ha, e⟩ | ⟨more, -, e⟩ <;> rw [e] at h
    · cases h
    · rw [pushByte_ok ha, h]
    · cases h

/-- After the first part of a string is written, writing the second part is the rest of writing the whole. -/
theorem writeBits_append_of_ok {stream : Bool} {x : List Bool} {u : State} (h : writeBits stream x s = .ok () u)
    (y : List Bool) : writeBits stream (x ++ y) s = writeBits stream y u := by
  induction x generalizing s with
  | nil =>
    cases h
    rfl
  | cons b x ih =>
    rw [writeBits] at h
    cases hb : writeBit stream x b s with
    | ok a v =>
      rw [hb, Run.andThen_ok] at h
      rw [List.cons_append, writeBits, writeBit_ok_rest hb, Run.andThen_ok, ih h]
    | raised c i v => rw [hb] at h; cases h
    | held p v => rw [hb] at h; cases h

theorem writeBits_afterBits (stream : Bool) {x : List Bool} (hc : writerClean s)
    (ha : sinkAccepts (bitsPushes x s) s) (y : List Bool) :
    writeBits stream y (afterBits x s) = writeBits stream (x ++ y) s :=
  (writeBits_append_of_ok (writeBits_ok stream hc ha) y).symm

end

/-! ### The codes of a stream -/

/-- What the BitWriter has taken does not depend on the items queued. -/
theorem setInput_afterBits (x : List Bool) (q q' : List InItem) (s : State) :
    (afterBits x (s.setInput q')).setInput q = afterBits x (s.setInput q) := rfl

theorem codeAt_afterBits (x : List Bool) (q : List InItem) (s : State) (b : Byte) :
    (afterBits x (s.setInput q)).codeAt b = s.codeAt b := rfl

section
variable {s : State} {bytes : List Byte} {q : List InItem} (hc : writerClean s)
include hc

/-- ENC at a byte with a code, the codes before it written: the string written grows by that code (R157). -/
theorem encLoop_byte_afterBits {x : List Bool} (ha : sinkAccepts (bitsPushes x s) s) {b : Byte}
    (hb : s.codeAt b ≠ []) (q' : List InItem) : encLoop (.byte b :: q) (afterBits x (s.setInput q')) =
      (writeBits true (x ++ s.codeAt b) (s.setInput q)).andThen fun _ s => encLoop q s := by
  rw [encLoop, setInput_afterBits, encodeSymbol_of_code (s := afterBits x (s.setInput q)) true hb, codeAt_afterBits,
    writeBits_afterBits (s := s.setInput q) true hc ha]

/-- ENC writes the codes of the bytes queued, then goes on with what follows them. -/
theorem encLoop_asItems (hcodes : ∀ b ∈ bytes, s.codeAt b ≠ [])
    (ha : sinkAccepts (bitsPushes (bytes.flatMap s.codeAt) s) s) (hin : s.input = asItems bytes ++ q) :
    encLoop s.input s = encLoop q (afterBits (bytes.flatMap s.codeAt) (s.setInput q)) := by
  induction bytes using List.reverseRecOn generalizing q with
  | nil =>
    obtain rfl : s.input = q := hin
    exact congrArg _ (afterBits_nil hc).symm
  | append_singleton bytes b ih =>
    obtain ⟨hbytes, hb⟩ := List.forall_mem_append.1 hcodes
    have hbits : (bytes ++ [b]).flatMap s.codeAt = bytes.flatMap s.codeAt ++ s.codeAt b := by simp
    rw [hbits] at ha ⊢
    have ha' := sinkAccepts_of_le (bitsPushes_le_append _ _ s) ha
    rw [ih hbytes ha' (q := .byte b :: q) (by simpa [asItems] using hin),
      encLoop_byte_afterBits hc ha' (hb b (List.mem_singleton_self b)), writeBits_ok (s := s.setInput q) true hc ha,
      Run.andThen_ok]

end

section
variable {s : State} {bytes : List Byte} {q : List InItem} (hv : s.codesValid = true)
  (hcodes : ∀ b ∈ bytes, s.codeAt b ≠ []) (hc : writerClean s)
  (ha : sinkAccepts (bitsPushes (bytes.flatMap s.codeAt) s) s)
include hv hcodes hc ha

theorem exec_enc_asItems (hin : s.input = asItems bytes ++ q) : exec .enc s =
    finish 0x24000000#32 (encLoop q (afterBits (bytes.flatMap s.codeAt) (s.setInput q))) := by
  have hword : encode .enc = 0x24000000#32 := by decide
  rw [exec, execEnc, if_pos hv, hword, encLoop_asItems hc hcodes ha hin]

theorem exec_enc_byte {b : Byte} (hin : s.input = asItems bytes ++ .byte b :: q) (hb : s.codeAt b ≠ []) :
    exec .enc s = finish 0x24000000#32
      ((writeBits true ((bytes ++ [b]).flatMap s.codeAt) (s.setInput q)).andThen fun _ s => encLoop q s) := by
  rw [exec_enc_asItems hv hcodes hc ha hin, encLoop_byte_afterBits hc ha hb, List.flatMap_append,
    List.flatMap_singleton]

end

end Sys2Proof.Machine

open Sys2Proof Sys2Proof.Machine

/-- Settles O30: ENCB is the writing of the symbol's code. -/
theorem encbWritesTheCode : Obligations.EncbWritesTheCode := by
  intro s sym hv
  rw [exec_encb_of_codesValid hv]
  refine ⟨fun h0 => ?_, fun hcode hc => ?_⟩
  · rw [encodeSymbol_of_empty false h0, finish_raised]
  rw [encodeSymbol_of_code false hcode]
  refine ⟨fun ha => ?_, fun k hk => ⟨fun rest ha => ?_, fun ha => ?_⟩⟩
  · rw [writeBits_ok false hc ha, finish_ok]
  · rw [writeBits_ioerr false hk ha, finish_raised]
  · obtain ⟨rest, e⟩ := writeBits_held false hk ha
    exact ⟨.write false (pushedByte (s.codeAt sym) k s) rest, rfl, by rw [e, finish_held]⟩

/-- Settles O31: ENC comes, with the codes before it written, to the item that ends it, to its Pull, or to the push
that is not answered OK. -/
theorem encWritesTheCodesOfTheStream : Obligations.EncWritesTheCodesOfTheStream := by
  refine ⟨by decide, fun s bytes q hv hcodes hc =>
    ⟨fun ha => ⟨fun hin => ?_, fun hin => ?_, fun b hin h0 => ?_, fun hin => ?_⟩, fun b k hb hin hle hlt => ?_⟩⟩
  · rw [exec_enc_asItems hv hcodes hc ha hin]
    rfl
  · rw [exec_enc_asItems hv hcodes hc ha hin]
    rfl
  · rw [exec_enc_asItems hv hcodes hc ha hin, encLoop, setInput_afterBits,
      encodeSymbol_of_empty (s := afterBits (bytes.flatMap s.codeAt) (s.setInput q)) true h0]
    rfl
  · refine ⟨.enc, by decide, rfl, ?_⟩
    rw [exec_enc_asItems hv hcodes hc ha (hin.trans (List.append_nil _).symm)]
    rfl
  · refine ⟨fun rest hans => ?_, fun hans => ?_⟩
    · rw [exec_enc_byte hv hcodes hc (sinkAccepts_of_replicate hans hle) hin hb,
        writeBits_ioerr (s := s.setInput q) true hlt hans]
      rfl
    · have hacc := sinkAccepts_of_replicate (hans.trans (List.append_nil _).symm) hle
      obtain ⟨rest, e⟩ := writeBits_held (s := s.setInput q) true hlt hans
      refine ⟨.write true (pushedByte _ k s) rest, rfl, ?_⟩
      rw [exec_enc_byte hv hcodes hc hacc hin hb, e]
      rfl
end

section
/-! PROOFS. What a BitWriter command changes, and what a failed push leaves it in (R150 to R158). -/

namespace Sys2Proof.Machine

/-! ### Pushes answered -/

/-- Between `s` and `u` just `k` pushes were made, each answered OK (R67). -/
def pushedOk (k : Nat) (s u : State) : Prop :=
  s.answers = List.replicate k .ok ++ u.answers ∧ u.output.length = s.output.length + k

/-- Between `s` and `u` some pushes were answered OK and then one IOERR, which left the writer empty (R158). -/
def sinkFailed (s u : State) : Prop :=
  u.bwAcc = 0#8 ∧ u.bwNbits = 0 ∧
    ∃ k rest, s.answers = List.replicate k .ok ++ .ioerr :: rest ∧ u.answers = rest ∧
      u.output.length = s.output.length + k

/-- A run of the BitWriter's pseudocode from `s`, by its pushes: all OK where it returns, a failed one where it raises
UNDERLYING_IO with info 1 (R158). -/
def Run.Pushes (s : State) : Run Unit → Prop
  | .ok _ u => ∃ k, pushedOk k s u
  | .raised c i u => c = .underlyingIo → i = 1#32 → sinkFailed s u
  | .held _ _ => True

section
variable {s u v : State} {r : Run Unit}

theorem pushedOk_zero (ha : u.answers = s.answers) (ho : u.output = s.output) : pushedOk 0 s u := by
  simp [pushedOk, ha, ho]

theorem pushedOk.trans {k m : Nat} (h : pushedOk k s u) (h' : pushedOk m u v) : pushedOk (k + m) s v := by
  obtain ⟨ha, ho⟩ := h
  obtain ⟨ha', ho'⟩ := h'
  exact ⟨by rw [ha, ha', List.replicate_add, List.append_assoc], by omega⟩

theorem pushedOk.sinkFailed {k : Nat} (h : pushedOk k s u) (h' : sinkFailed u v) : sinkFailed s v := by
  obtain ⟨ha, ho⟩ := h
  obtain ⟨hacc, hn, m, rest, ha', hv, ho'⟩ := h'
  exact ⟨hacc, hn, k + m, rest, by rw [ha, ha', List.replicate_add, List.append_assoc], hv, by omega⟩

theorem pushedOk.pushes {k : Nat} (h : pushedOk k s u) (hr : r.Pushes u) : r.Pushes s := by
  cases r with
  | ok a v =>
    obtain ⟨m, hm⟩ := hr
    exact ⟨k + m, h.trans hm⟩
  | raised c i v => exact fun hcode hinfo => h.sinkFailed (hr hcode hinfo)
  | held p v => trivial

theorem Run.Pushes.andThen {f : Unit → State → Run Unit} (hr : r.Pushes s) (hf : ∀ u, (f () u).Pushes u) :
    (r.andThen f).Pushes s := by
  cases r with
  | ok a u =>
    obtain ⟨k, hk⟩ := hr
    exact hk.pushes (hf u)
  | raised c i u => exact hr
  | held p u => trivial

/-! ### The BitWriter's pseudocode by its pushes -/

/-- A push made from the emptied writer (R150, R151). -/
theorem pushByte_emptied_pushes (p : Progress) (b : Byte) (s : State) :
    (pushByte p b (s.setWriter 0#8 0)).Pushes s := by
  rcases pushByte_cases p b (s.setWriter 0#8 0) with ⟨-, e⟩ | ⟨rest, ha, e⟩ | ⟨rest, ha, e⟩ <;> rw [e]
  · trivial
  · exact ⟨1, ha, by simp⟩
  · exact fun _ _ => ⟨rfl, rfl, 0, rest, ha, rfl, by simp⟩

theorem writeBit_pushes (stream : Bool) (rest : List Bool) (b : Bool) (s : State) :
    (writeBit stream rest b s).Pushes s := by
  rcases writeBit_cases stream rest b s with ⟨hn, e⟩ | ⟨-, e⟩ <;> rw [e]
  · exact ⟨0, pushedOk_zero rfl rfl⟩
  · exact pushByte_emptied_pushes _ _ s

theorem writeBits_pushes (stream : Bool) (bits : List Bool) (s : State) : (writeBits stream bits s).Pushes s := by
  induction bits generalizing s with
  | nil => exact ⟨0, pushedOk_zero rfl rfl⟩
  | cons b bits ih => exact (writeBit_pushes stream bits b s).andThen ih

theorem closeWriter_pushes (s : State) : (closeWriter s).Pushes s := by
  unfold closeWriter
  split
  · exact ⟨0, pushedOk_zero rfl rfl⟩
  · exact pushByte_emptied_pushes _ _ s

theorem encodeSymbol_pushes (stream : Bool) (sym : Byte) (s : State) : (encodeSymbol stream sym s).Pushes s := by
  unfold encodeSymbol
  split
  · exact nofun
  · exact writeBits_pushes stream _ s

theorem encLoop_pushes (q : List InItem) (s : State) : (encLoop q s).Pushes s := by
  induction q generalizing s with
  | nil => trivial
  | cons it q ih =>
    have hpull : pushedOk 0 s (s.setInput q) := pushedOk_zero rfl rfl
    cases it with
    | eos => exact ⟨0, hpull⟩
    | ioerr => exact fun _ hinfo => absurd hinfo (by decide)
    | byte b => exact hpull.pushes ((encodeSymbol_pushes true b _).andThen ih)

/-! ### The BitWriter commands -/

/-- What the run of a BitWriter command from `s` that leaves the items `q` queued does (R150 to R158). -/
structure Run.Writes (s : State) (q : List InItem) (r : Run Unit) : Prop where
  pushes : r.Pushes s
  state : ∃ x n o a, r.state = { s with bwAcc := x, bwNbits := n, output := o, answers := a, input := q }

/-- A precondition error has no effect (R214). -/
theorem Run.Writes.of_raised {c : ErrCode} (hcode : c ≠ .underlyingIo) (i : Word) (s : State) :
    (Run.raised c i s : Run Unit).Writes s s.input :=
  ⟨fun h => absurd h hcode, s.bwAcc, s.bwNbits, s.output, s.answers, rfl⟩

theorem Run.Writes.checked {ok : Bool} {c : ErrCode} (hr : r.Writes s s.input) (hcode : c ≠ .underlyingIo) (i : Word) :
    (if ok then r else .raised c i s).Writes s s.input := by
  split
  · exact hr
  · exact .of_raised hcode i s

theorem writeBits_writes (stream : Bool) (bits : List Bool) (s : State) :
    (writeBits stream bits s).Writes s s.input :=
  ⟨writeBits_pushes stream bits s, writeBits_state stream bits s⟩

/-- A BitWriter command from its start is a run that writes; only ENC pulls (R153 to R157). -/
theorem exec_writer_run {i : Instr} (hi : i.opc ∈ [0x20#8, 0x21#8, 0x22#8, 0x23#8, 0x24#8]) (s : State) :
    ∃ r q, exec i s = finish (encode i) r ∧ r.Writes s q ∧ (i ≠ .enc → q = s.input) := by
  cases i with
  | bwbit val => exact ⟨_, _, rfl, (writeBits_writes false _ s).checked (by decide) _, fun _ => rfl⟩
  | bwcode len bits => exact ⟨_, _, rfl, (writeBits_writes false _ s).checked (by decide) _, fun _ => rfl⟩
  | bwclose => exact ⟨_, _, rfl, ⟨closeWriter_pushes s, closeWriter_state s⟩, fun _ => rfl⟩
  | encb sym =>
    have hw : (encodeSymbol false sym s).Writes s s.input := ⟨encodeSymbol_pushes .., encodeSymbol_state ..⟩
    exact ⟨_, _, rfl, hw.checked (by decide) _, fun _ => rfl⟩
  | enc =>
    by_cases hv : s.codesValid = true
    · obtain ⟨x, n, o, a, q, e⟩ := encLoop_state s.input s
      exact ⟨_, q, by rw [exec, execEnc, if_pos hv], ⟨encLoop_pushes _ s, x, n, o, a, e⟩, fun h => absurd rfl h⟩
    · exact ⟨_, _, by rw [exec, execEnc, if_neg hv], .of_raised (by decide) _ s, fun _ => rfl⟩
  | _ => exact absurd hi (by decide)

/-- RESULT is not a BitWriter command's to clear (R213). -/
theorem clearsResult_of_writer {i : Instr} (hi : i.opc ∈ [0x20#8, 0x21#8, 0x22#8, 0x23#8, 0x24#8]) :
    clearsResult (opcOf (encode i)) = false := by
  rw [opcOf_encode]
  simp only [List.mem_cons, List.not_mem_nil, or_false] at hi
  rcases hi with h | h | h | h | h <;> rw [h] <;> rfl

/-- ERR is set by error entry only: a command that ends with it newly set ran into an error (R213). -/
theorem exists_raised_of_finish {w : Word} {t : State} (h : finish w r = .next t) (herr : r.state.err = false)
    (ht : t.err = true) : ∃ u, r = .raised t.errcode t.errinfo u ∧ t = errorEntry w t.errcode t.errinfo u := by
  rcases finish_cases h with ⟨u, rfl, rfl⟩ | ⟨c, i, u, rfl, rfl⟩ | ⟨p, u, rfl, rfl⟩
  · exact absurd ht (by simpa using herr)
  · exact ⟨u, rfl, rfl⟩
  · exact absurd ht (by simpa using herr)

end

end Sys2Proof.Machine

open Sys2Proof Sys2Proof.Machine

/-- Settles O32: a run of a BitWriter command raises UNDERLYING_IO with info 1 at a failed push only. -/
theorem sinkFailureEmptiesTheWriter : Obligations.SinkFailureEmptiesTheWriter := by
  intro s t i hi herr h ht hcode hinfo
  obtain ⟨r, q, e, ⟨hpushes, x, n, o, a, hstate⟩, -⟩ := exec_writer_run hi s
  obtain ⟨u, rfl, hu⟩ := exists_raised_of_finish (e.symm.trans h) (by rw [hstate]; exact herr) ht
  rw [hu]
  exact hpushes hcode hinfo

/-- Settles O43, by what a BitWriter command's run may change. -/
theorem frameOfWriterCommands : Obligations.FrameOfWriterCommands := by
  intro s t i hi h
  obtain ⟨r, q, e, ⟨-, x, n, o, a, hstate⟩, hinput⟩ := exec_writer_run hi s
  obtain ⟨b, d, er, c, inf, p, g, rfl⟩ := endsIn_finish (clearsResult_of_writer hi) (e.symm.trans h)
  rw [hstate]
  exact ⟨rfl, rfl, rfl, rfl, rfl, rfl, rfl, rfl, rfl, rfl, rfl, rfl, rfl, rfl, rfl, rfl, rfl, rfl, hinput⟩
end

section
/-! PROOFS. ReadBit's ends, and the BitReader commands BROPEN, BRBIT, BRSYM settled (R170, R171, R180 to R182). -/

namespace Sys2Proof.Machine

/-! ### ReadBit (R170) -/

section
variable {s : State} {q : List InItem}

theorem takeBit_of_succ {n : Fin 9} (hn : n.val + 1 = s.brNleft.val) :
    takeBit s = .ok (some (s.brBuf.getLsbD n.val)) (s.setReader s.brBuf n) := by
  simp only [takeBit, ← hn, Nat.add_sub_cancel]

theorem readBit_of_succ (p : Progress) (hb : s.budget ≠ 0#40) {n : Fin 9} (hn : n.val + 1 = s.brNleft.val) :
    readBit p s = .ok (some (s.brBuf.getLsbD n.val)) (s.setReader s.brBuf n) := by
  have hheld : s.brNleft ≠ 0 := fun h0 => by simp [h0] at hn
  rw [readBit_held p hb hheld, takeBit_of_succ hn]

variable (p : Progress) (hb : s.budget ≠ 0#40) (hn : s.brNleft = 0)
include hb hn

theorem readBit_nil (hin : s.input = []) : readBit p s = .held p s := by
  rw [readBit_fresh p hb hn, pull_nil hin, Run.andThen_held]

theorem readBit_eos (hin : s.input = .eos :: q) :
    readBit p s = .raised .corruptBody (s.budget.extractLsb' 0 32) (s.setInput q) := by
  rw [readBit_fresh p hb hn, pull_cons hin]
  rfl

theorem readBit_ioerr (hin : s.input = .ioerr :: q) :
    readBit p s = .raised .underlyingIo 0#32 (s.setInput q) := by
  rw [readBit_fresh p hb hn, pull_cons hin]
  rfl

theorem readBit_byte {v : Byte} (hin : s.input = .byte v :: q) :
    readBit p s = .ok (some (v.getLsbD 7)) ((s.setInput q).setReader v 7) := by
  rw [readBit_fresh p hb hn, pull_cons hin]
  exact takeBit_of_succ (s := (s.setInput q).setReader v 8) (n := 7) rfl

end

/-! ### The commands -/

theorem encode_brbit : encode .brbit = 0x31000000#32 := by decide

theorem encode_brsym : encode .brsym = 0x32000000#32 := by decide

section
variable {s : State}

theorem exec_brbit_of_closed (ho : s.brOpen = false) :
    exec .brbit s = .next (errorEntry 0x31000000#32 .notOpen 0x31000000#32 s) := by
  rw [exec, execBrbit, ho, encode_brbit]
  rfl

theorem exec_brbit_of_open (ho : s.brOpen = true) : exec .brbit s = finish 0x31000000#32 (brbitBody s) := by
  rw [exec, execBrbit, if_pos ho, encode_brbit]

theorem exec_brsym_of_closed (ho : s.brOpen = false) :
    exec .brsym s = .next (errorEntry 0x32000000#32 .notOpen 0x32000000#32 s) := by
  rw [exec, execBrsym, ho, encode_brsym]
  rfl

theorem exec_brsym_of_open (ho : s.brOpen = true) :
    exec .brsym s = finish 0x32000000#32 (symbolConsumed 0x32000000#32 s) := by
  rw [exec, execBrsym, if_pos ho, encode_brsym]

/-- SymbolConsumed with the new budget named (R171). -/
theorem symbolConsumed_of_succ (w : Word) {g : Weight} (hg : g.toNat + 1 = s.budget.toNat) :
    symbolConsumed w s = .ok () (s.setBudget g) := by
  rcases symbolConsumed_cases w s with ⟨hb, -⟩ | ⟨-, e⟩
  · simp [hb] at hg
  · rw [e, show s.budget - 1#40 = g by bv_omega]

end

end Sys2Proof.Machine

open Sys2Proof Sys2Proof.Machine

/-- Settles O33: BROPEN is its three assignments and completion. -/
theorem bropenOpensAnEmptyReader : Obligations.BropenOpensAnEmptyReader := ⟨by decide, fun _ => rfl⟩

/-- Settles O34: BRBIT is one ReadBit, by its ends. -/
theorem brbitReadsOneBit : Obligations.BrbitReadsOneBit := by
  refine ⟨encode_brbit, fun s => exec_brbit_of_closed, fun s ho => ?_⟩
  rw [exec_brbit_of_open ho, brbitBody]
  refine ⟨fun h0 => ?_, fun hb => ⟨fun n hn => ?_, fun hn => ⟨fun hin => ?_, fun v q hin => ?_, fun q hin => ?_,
    fun q hin => ?_⟩⟩⟩
  · rw [readBit, if_pos h0]
    rfl
  · rw [readBit_of_succ .brbit hb hn]
    rfl
  · rw [readBit_nil .brbit hb hn hin]
    rfl
  · rw [readBit_byte .brbit hb hn hin]
    rfl
  · rw [readBit_eos .brbit hb hn hin]
    rfl
  · rw [readBit_ioerr .brbit hb hn hin]
    rfl

/-- Settles O35: BRSYM is one SymbolConsumed. -/
theorem brsymCountsOneSymbol : Obligations.BrsymCountsOneSymbol := by
  refine ⟨encode_brsym, fun s => ⟨exec_brsym_of_closed, fun ho h0 => ?_, fun g ho hg => ?_⟩⟩
  · rw [exec_brsym_of_open ho, symbolConsumed, if_pos h0, finish_raised]
  · rw [exec_brsym_of_open ho, symbolConsumed_of_succ _ hg]
    rfl
end

section
/-! PROOFS. ISKIP: the bytes queued are discarded up to the item that ends it (R185). -/

namespace Sys2Proof.Machine

section
variable {s : State} {bytes : List Byte} {q : List InItem}

theorem iskipLoop_asItems (hin : s.input = asItems bytes ++ q) :
    iskipLoop s.input s = iskipLoop q (s.setInput q) := by
  induction bytes generalizing s with
  | nil =>
    obtain rfl : s.input = q := hin
    rfl
  | cons b bytes ih =>
    rw [hin]
    exact ih (s := s.setInput (asItems bytes ++ q)) rfl

theorem exec_iskip_asItems (hin : s.input = asItems bytes ++ q) :
    exec .iskip s = finish 0x35000000#32 (iskipLoop q (s.setInput q)) := by
  have hword : encode .iskip = 0x35000000#32 := by decide
  rw [exec, execIskip, iskipLoop_asItems hin, hword]

end

end Sys2Proof.Machine

open Sys2Proof Sys2Proof.Machine

/-- Settles O40: ISKIP comes to the item after the bytes queued, or to its Pull. -/
theorem iskipDiscardsToEnd : Obligations.IskipDiscardsToEnd := by
  refine ⟨by decide, fun s bytes q => ⟨exec_iskip_asItems, exec_iskip_asItems, fun hin => ?_⟩⟩
  exact ⟨.iskip, by decide, rfl, exec_iskip_asItems (hin.trans (List.append_nil _).symm)⟩
end

section
/-! PROOFS. The tree walk over the bits still to be read, those held and those of the bytes queued (R36, R170, R172),
and DECSYM settled (R183). -/

namespace Sys2Proof.Machine

theorem length_byteBits (v : Byte) : (byteBits v).length = 8 := rfl

theorem length_readerBits (s : State) : (readerBits s).length = s.brNleft.val := by simp [readerBits]

theorem readerBits_of_empty {s : State} (hn : s.brNleft = 0) : readerBits s = [] := by simp [readerBits, hn]

/-- A fresh byte's bit 7 comes first; the reader then holds the other seven (R69, R170). -/
theorem byteBits_eq_cons (v : Byte) (s : State) : byteBits v = v.getLsbD 7 :: readerBits (s.setReader v 7) := rfl

theorem readerBits_of_succ {s : State} {n : Fin 9} (hn : n.val + 1 = s.brNleft.val) :
    readerBits s = s.brBuf.getLsbD n.val :: readerBits (s.setReader s.brBuf n) := by
  obtain ⟨bit, u, e, hbits, -, -⟩ := takeBit_readerBits hn.symm
  rw [takeBit_of_succ hn] at e
  cases e
  exact hbits

theorem readAway_cons (v : Byte) (bytes : List Byte) (n : Fin 9) (q q' : List InItem) (m : Fin 9) (s : State) :
    readAway bytes n q ((s.setInput q').setReader v m) = readAway (v :: bytes) n q s := by
  rw [readAway, readAway, List.getLastD_cons]
  rfl

/-- `u` is `s` but for what it has read of the bits of `s` and of `bytes`, queued before `q`: the bits `left` are still
to be read (R170). What is read away with the last byte is the same from both. -/
def readsTo (bytes : List Byte) (q : List InItem) (s : State) (left : List Bool) (u : State) : Prop :=
  ∃ more, u.input = asItems more ++ q ∧ readerBits u ++ more.flatMap byteBits = left ∧
    ∀ n, readAway more n q u = readAway bytes n q s

section
variable {bytes : List Byte} {q : List InItem} {s u : State}

theorem readsTo_start (hin : s.input = asItems bytes ++ q) :
    readsTo bytes q s (readerBits s ++ bytes.flatMap byteBits) s := ⟨bytes, hin, rfl, fun _ => rfl⟩

section
variable {left : List Bool} (h : readsTo bytes q s left u)
include h

theorem readsTo.state : ∃ b n i, u = { s with brBuf := b, brNleft := n, input := i } := by
  obtain ⟨more, -, -, haway⟩ := h
  exact ⟨u.brBuf, u.brNleft, u.input, congrArg (fun t : State =>
    { t with brBuf := u.brBuf, brNleft := u.brNleft, input := u.input }) (haway 0)⟩

theorem readsTo.budget_eq : u.budget = s.budget := by
  obtain ⟨b, n, i, rfl⟩ := h.state
  rfl

theorem readsTo.tree_eq : u.tree = s.tree := by
  obtain ⟨b, n, i, rfl⟩ := h.state
  rfl

theorem readsTo.answers_eq : u.answers = s.answers := by
  obtain ⟨b, n, i, rfl⟩ := h.state
  rfl

/-- A push and a count do not touch the bits to be read. -/
theorem readsTo.deliver_setBudget (bs : List Byte) (rest : List Answer) (g : Weight) :
    readsTo bytes q ((s.deliver bs rest).setBudget g) left ((u.deliver bs rest).setBudget g) := by
  obtain ⟨more, hin, hbits, haway⟩ := h
  exact ⟨more, hin, hbits, fun n => congrArg (fun t => (t.deliver bs rest).setBudget g) (haway n)⟩

/-- With fewer than eight bits left no byte is queued before `q`. -/
theorem readsTo.eq_readAway (hlen : left.length < 8) {n : Fin 9} (hn : n.val = left.length) :
    u = readAway bytes n q s := by
  obtain ⟨more, hin, hbits, haway⟩ := h
  cases more with
  | nil =>
    obtain rfl : u.brNleft = n := Fin.ext (by rw [hn, ← hbits]; simp [length_readerBits])
    obtain rfl : u.input = q := hin
    exact haway u.brNleft
  | cons v more =>
    rw [← hbits, List.flatMap_cons] at hlen
    simp only [List.length_append, length_byteBits] at hlen
    omega

end

/-- ReadBit takes the first of the bits to be read (R170). -/
theorem readsTo.readBit_cons {b : Bool} {left : List Bool} (h : readsTo bytes q s (b :: left) u) (p : Progress)
    (hb : s.budget ≠ 0#40) : ∃ v, readBit p u = .ok (some b) v ∧ readsTo bytes q s left v := by
  rw [← h.budget_eq] at hb
  obtain ⟨more, hin, hbits, haway⟩ := h
  rcases Fin.eq_zero_or_eq_succ u.brNleft with hn | ⟨n, hn⟩
  · have hnone := readerBits_of_empty hn
    cases more with
    | nil => simp [hnone] at hbits
    | cons v more =>
      rw [hnone, List.nil_append, List.flatMap_cons, byteBits_eq_cons v (u.setInput (asItems more ++ q))] at hbits
      obtain ⟨rfl, rfl⟩ := List.cons_eq_cons.1 hbits
      exact ⟨_, readBit_byte p hb hn hin, more, rfl, rfl, fun n => (readAway_cons ..).trans (haway n)⟩
  · have hn : n.castSucc.val + 1 = u.brNleft.val := by rw [hn]; rfl
    rw [readerBits_of_succ hn] at hbits
    obtain ⟨rfl, rfl⟩ := List.cons_eq_cons.1 hbits
    exact ⟨_, readBit_of_succ p hb hn, more, hin, rfl, haway⟩

/-! ### The walk from a node (R172) -/

section
variable {d : DecodeCmd} {cur nxt : NodeIx} {b : Bool}

theorem walkStep_of_missing (hc : (s.tree.nodeAt cur).child b = none) :
    walkStep d cur (some b) s = .raised .missingChild (BitVec.ofNat 32 cur.val) s := by
  simp only [walkStep, hc]

variable (hc : (s.tree.nodeAt cur).child b = some nxt)
include hc

theorem walkStep_of_leaf {sym : Byte} {w : Weight} (hl : s.tree.nodeAt nxt = .leaf sym w) :
    walkStep d cur (some b) s = emitSymbol d sym s := by
  simp only [walkStep, hc, hl]

theorem walkStep_of_internal {w : Weight} {l : NodeIx} {r : Option NodeIx}
    (hi : s.tree.nodeAt nxt = .internal w l r) : walkStep d cur (some b) s = walkFrom d nxt s := by
  simp only [walkStep, hc, hi]

end

section
variable (d : DecodeCmd) {cur cur' : NodeIx} {left : List Bool} (hb : s.budget ≠ 0#40)
include hb

theorem readsTo.walkFrom_cons {b : Bool} (h : readsTo bytes q s (b :: left) u) (cur : NodeIx) :
    ∃ v, walkFrom d cur u = walkStep d cur (some b) v ∧ readsTo bytes q s left v := by
  obtain ⟨v, e, hv⟩ := h.readBit_cons (.walk d cur) hb
  exact ⟨v, by rw [walkFrom_eq, e, Run.andThen_ok], hv⟩

/-- Bits that lead to a node bring the walk there. -/
theorem readsTo.walkFrom_of_descend {bits : List Bool} (h : readsTo bytes q s (bits ++ left) u)
    (hd : s.tree.descend cur bits = some cur') :
    ∃ v, walkFrom d cur u = walkFrom d cur' v ∧ readsTo bytes q s left v := by
  induction bits generalizing cur u with
  | nil =>
    obtain rfl : cur = cur' := by simpa [Tree.descend] using hd
    exact ⟨u, rfl, h⟩
  | cons b bits ih =>
    obtain ⟨v, e, hv⟩ := h.walkFrom_cons d hb cur
    simp only [Tree.descend] at hd
    split at hd
    next => cases hd
    next nxt hc =>
      split at hd
      next => cases hd
      next hi =>
        rw [← hv.tree_eq] at hc hi
        rw [e, walkStep_of_internal hc hi]
        exact ih hv hd

/-- Bits that lead to a leaf bring the walk to the push of its symbol. -/
theorem readsTo.walkFrom_of_readSymbol {bits : List Bool} {sym : Byte} (h : readsTo bytes q s bits u)
    (hr : s.tree.readSymbol cur bits = some (sym, left)) :
    ∃ v, walkFrom d cur u = emitSymbol d sym v ∧ readsTo bytes q s left v := by
  induction bits generalizing cur u with
  | nil => cases hr
  | cons b bits ih =>
    obtain ⟨v, e, hv⟩ := h.walkFrom_cons d hb cur
    simp only [Tree.readSymbol] at hr
    split at hr
    next => cases hr
    next nxt hc =>
      rw [← hv.tree_eq] at hc
      split at hr
      next hl =>
        cases hr
        rw [← hv.tree_eq] at hl
        exact ⟨v, by rw [e, walkStep_of_leaf hc hl], hv⟩
      next hi =>
        rw [← hv.tree_eq] at hi
        rw [e, walkStep_of_internal hc hi]
        exact ih hv hr

end

/-! ### One symbol (R172) -/

theorem decodeSymbol_of_no_root (d : DecodeCmd) (hb : s.budget ≠ 0#40) (hr : s.tree.root = none) :
    decodeSymbol d s = .raised .missingChild 0xFFFFFFFF#32 s := by
  rw [decodeSymbol, if_neg hb, hr]

section
variable (d : DecodeCmd) {r cur : NodeIx} {bits left : List Bool} (hb : s.budget ≠ 0#40) (hr : s.tree.root = some r)
include hb hr

theorem readsTo.decodeSymbol_eq (h : readsTo bytes q s bits u) : decodeSymbol d u = walkFrom d r u := by
  rw [decodeSymbol, h.budget_eq, if_neg hb, h.tree_eq, hr]

theorem readsTo.decodeSymbol_of_readSymbol (h : readsTo bytes q s bits u) {sym : Byte}
    (hsym : s.tree.readSymbol r bits = some (sym, left)) :
    ∃ v, decodeSymbol d u = emitSymbol d sym v ∧ readsTo bytes q s left v := by
  rw [h.decodeSymbol_eq d hb hr]
  exact h.walkFrom_of_readSymbol d hb hsym

theorem readsTo.decodeSymbol_of_missing {before : List Bool} {b : Bool} (h : readsTo bytes q s (before ++ b :: left) u)
    (hd : s.tree.descend r before = some cur) (hc : (s.tree.nodeAt cur).child b = none) :
    ∃ v, decodeSymbol d u = .raised .missingChild (BitVec.ofNat 32 cur.val) v ∧ readsTo bytes q s left v := by
  obtain ⟨v, e, hv⟩ := h.walkFrom_of_descend d hb hd
  obtain ⟨w, e', hw⟩ := hv.walkFrom_cons d hb cur
  rw [← hw.tree_eq] at hc
  exact ⟨w, by rw [h.decodeSymbol_eq d hb hr, e, e', walkStep_of_missing hc], hw⟩

/-- Where the bits end inside the walk, ReadBit's Pull finds the item behind them, or none. -/
theorem readsTo.decodeSymbol_of_descend (h : readsTo bytes q s bits u) (hd : s.tree.descend r bits = some cur) :
    decodeSymbol d u = (readBit (.walk d cur) (readAway bytes 0 q s)).andThen (walkStep d cur) := by
  obtain ⟨v, e, hv⟩ := readsTo.walkFrom_of_descend (left := []) d hb (by rwa [List.append_nil]) hd
  obtain rfl := hv.eq_readAway (by decide) (n := 0) rfl
  rw [h.decodeSymbol_eq d hb hr, e, walkFrom_eq]

theorem readsTo.decodeSymbol_of_nil (h : readsTo bytes [] s bits u) (hd : s.tree.descend r bits = some cur) :
    decodeSymbol d u = .held (.walk d cur) (readAway bytes 0 [] s) := by
  rw [h.decodeSymbol_of_descend d hb hr hd, readBit_nil (s := readAway bytes 0 [] s) _ hb rfl rfl, Run.andThen_held]

theorem readsTo.decodeSymbol_of_eos (h : readsTo bytes (.eos :: q) s bits u) (hd : s.tree.descend r bits = some cur) :
    decodeSymbol d u = .raised .corruptBody (s.budget.extractLsb' 0 32) (readAway bytes 0 q s) := by
  rw [h.decodeSymbol_of_descend d hb hr hd, readBit_eos (s := readAway bytes 0 (.eos :: q) s) _ hb rfl rfl]
  rfl

theorem readsTo.decodeSymbol_of_ioerr (h : readsTo bytes (.ioerr :: q) s bits u)
    (hd : s.tree.descend r bits = some cur) :
    decodeSymbol d u = .raised .underlyingIo 0#32 (readAway bytes 0 q s) := by
  rw [h.decodeSymbol_of_descend d hb hr hd, readBit_ioerr (s := readAway bytes 0 (.ioerr :: q) s) _ hb rfl rfl]
  rfl

end

end

/-! ### The push of a symbol (R172) -/

section
variable {s : State} (d : DecodeCmd) (sym : Byte)

theorem emitSymbol_of_nil (ha : s.answers = []) : emitSymbol d sym s = .held (.emit d sym) s := by
  rw [emitSymbol, pushByte_nil ha, Run.andThen_held]

theorem emitSymbol_of_ioerr {rest : List Answer} (ha : s.answers = .ioerr :: rest) :
    emitSymbol d sym s = .raised .underlyingIo 1#32 { s with answers := rest } := by
  rw [emitSymbol, pushByte_ioerr ha, Run.andThen_raised, State.deliver, List.append_nil]

theorem emitSymbol_of_ok {rest : List Answer} (ha : s.answers = .ok :: rest) {g : Weight}
    (hg : g.toNat + 1 = s.budget.toNat) :
    emitSymbol d sym s = .ok (some sym) ((s.deliver [sym] rest).setBudget g) := by
  rw [emitSymbol, pushByte_ok ha, Run.andThen_ok, countSymbol,
    symbolConsumed_of_succ (s := s.deliver [sym] rest) _ hg, Run.andThen_ok]

end

/-! ### DECSYM -/

theorem encode_decsym : encode .decsym = 0x33000000#32 := by decide

theorem exec_decsym_of_ready {s : State} (ht : s.treeValid = true) (ho : s.brOpen = true) :
    exec .decsym s = finish 0x33000000#32 ((decodeSymbol .decsym s).andThen (afterSymbol .decsym)) := by
  rw [exec, execDecsym, if_pos ht, if_pos ho, encode_decsym]

end Sys2Proof.Machine

open Sys2Proof Sys2Proof.Machine

/-- Settles O36: DECSYM walks to a leaf and to its push, to a node without the child asked for, or to the end of the
bits. -/
theorem decsymDecodesOneSymbol : Obligations.DecsymDecodesOneSymbol := by
  refine ⟨encode_decsym, fun s ht ho => ?_⟩
  rw [exec_decsym_of_ready ht ho]
  refine ⟨fun h0 => ?_, fun hb hr => ?_, fun r bytes q hr hb => ⟨fun sym left n hin hsym hlen hn => ?_,
    fun before b left cur n hin hbits hlen hn hd hc => ?_,
    fun cur hd => ⟨fun hin => ?_, fun hin => ?_, fun hin => ?_⟩⟩⟩
  · rw [decodeSymbol, if_pos h0]
    rfl
  · rw [decodeSymbol_of_no_root .decsym hb hr]
    rfl
  · obtain ⟨v, e, hv⟩ := (readsTo_start hin).decodeSymbol_of_readSymbol .decsym hb hr hsym
    obtain rfl := hv.eq_readAway hlen hn
    rw [e]
    refine ⟨fun g rest hg ha => ?_, fun rest ha => ?_, fun ha => ⟨.emit .decsym sym, rfl, ?_⟩⟩
    · rw [emitSymbol_of_ok (s := readAway bytes n q s) .decsym sym ha hg]
      rfl
    · rw [emitSymbol_of_ioerr (s := readAway bytes n q s) .decsym sym ha]
      rfl
    · rw [emitSymbol_of_nil (s := readAway bytes n q s) .decsym sym ha]
      rfl
  · obtain ⟨v, e, hv⟩ := (hbits ▸ readsTo_start hin).decodeSymbol_of_missing .decsym hb hr hd hc
    obtain rfl := hv.eq_readAway hlen hn
    rw [e]
    rfl
  · rw [(readsTo_start hin).decodeSymbol_of_eos .decsym hb hr hd]
    rfl
  · rw [(readsTo_start hin).decodeSymbol_of_ioerr .decsym hb hr hd]
    rfl
  · refine ⟨.walk .decsym cur, by simp, rfl, ?_⟩
    rw [(readsTo_start (hin.trans (List.append_nil _).symm)).decodeSymbol_of_nil .decsym hb hr hd]
    rfl
end

section
/-! PROOFS. DEC decodes symbol after symbol off one stream of bits, until TOTAL are pushed or one is not (R184). -/

namespace Sys2Proof.Machine

/-! ### Symbols read off a bit string -/

section
variable {t : Tree} {m : Nat} {bits left : List Bool} {syms : List Byte}

theorem Tree.readSymbols_succ_first (h : t.readSymbols (m + 1) bits = some (syms, left)) :
    ∃ r sym mid more, t.root = some r ∧ t.readSymbol r bits = some (sym, mid) ∧
      t.readSymbols m mid = some (more, left) ∧ syms = sym :: more := by
  rw [Tree.readSymbols] at h
  split at h
  next => cases h
  next r hr =>
    split at h
    next => cases h
    next sym mid hsym =>
      split at h
      next => cases h
      next more left' hmore =>
        cases h
        exact ⟨r, sym, mid, more, hr, hsym, hmore, rfl⟩

theorem Tree.length_of_readSymbols (h : t.readSymbols m bits = some (syms, left)) : syms.length = m := by
  induction m generalizing bits syms with
  | zero =>
    cases h
    rfl
  | succ m ih =>
    obtain ⟨r, sym, mid, more, -, -, hmore, rfl⟩ := Tree.readSymbols_succ_first h
    rw [List.length_cons, ih hmore]

/-- The last of `m + 1` symbols is read after the other `m`. -/
theorem Tree.readSymbols_succ_last (h : t.readSymbols (m + 1) bits = some (syms, left)) :
    ∃ r init sym mid, t.root = some r ∧ t.readSymbols m bits = some (init, mid) ∧
      t.readSymbol r mid = some (sym, left) ∧ syms = init ++ [sym] := by
  induction m generalizing bits syms with
  | zero =>
    obtain ⟨r, sym, mid, more, hr, hsym, hmore, rfl⟩ := Tree.readSymbols_succ_first h
    cases hmore
    exact ⟨r, [], sym, bits, hr, rfl, hsym, rfl⟩
  | succ m ih =>
    obtain ⟨r, sym, mid, more, hr, hsym, hmore, rfl⟩ := Tree.readSymbols_succ_first h
    obtain ⟨r', init, sym', mid', hr', hinit, hlast, rfl⟩ := ih hmore
    exact ⟨r', sym :: init, sym', mid', hr', by simp [Tree.readSymbols, hr, hsym, hinit], hlast, rfl⟩

end

/-! ### DEC's loop -/

/-- `syms` are pushed and answered OK, and `k` symbols are still owed (R184). -/
def decodedTo (syms : List Byte) (k : Nat) (s : State) : State :=
  (delivered syms s).setBudget (BitVec.ofNat 40 k)

theorem decodedTo_nil {s : State} : decodedTo [] s.budget.toNat s = s := by
  rw [decodedTo, delivered, List.append_nil, BitVec.ofNat_toNat, BitVec.setWidth_eq]
  rfl

theorem decodedTo_cons (sym : Byte) (syms : List Byte) (k : Nat) {s : State} {rest : List Answer} (g : Weight)
    (ha : s.answers = .ok :: rest) :
    decodedTo syms k ((s.deliver [sym] rest).setBudget g) = decodedTo (sym :: syms) k s := by
  rw [decodedTo, decodedTo, delivered, delivered, ha]
  simp [State.deliver, State.setBudget]

section
variable {s u : State} {bytes : List Byte} {q : List InItem} {m k : Nat} {bits left : List Bool} {syms : List Byte}

/-- With their pushes answered OK, `m` symbols take `m` rounds of the loop. -/
theorem readsTo.decLoop_of_readSymbols (h : readsTo bytes q s bits u) (hk : m + k = s.budget.toNat)
    (ha : sinkAccepts m s) (hr : s.tree.readSymbols m bits = some (syms, left)) :
    ∃ v, decLoop s.budget.toNat u = decLoop k v ∧ readsTo bytes q (decodedTo syms k s) left v := by
  induction m generalizing s u bits syms with
  | zero =>
    cases hr
    obtain rfl : k = s.budget.toNat := by rw [← hk, Nat.zero_add]
    exact ⟨u, rfl, by rwa [decodedTo_nil]⟩
  | succ m ih =>
    obtain ⟨r, sym, mid, more, hroot, hsym, hmore, rfl⟩ := Tree.readSymbols_succ_first hr
    obtain ⟨rest, hok, hrest⟩ := sinkAccepts_succ ha
    have hb : s.budget ≠ 0#40 := fun h0 => by simp [h0] at hk
    have hg := budget_sub_one hb
    obtain ⟨v, e, hv⟩ := h.decodeSymbol_of_readSymbol .dec hb hroot hsym
    have hmid := hv.deliver_setBudget [sym] rest (s.budget - 1#40)
    obtain ⟨w, e', hw⟩ := ih hmid (by rw [State.setBudget_budget]; omega) hrest hmore
    refine ⟨w, ?_, by rwa [decodedTo_cons sym more k _ hok] at hw⟩
    rw [← hg, decLoop, e, emitSymbol_of_ok .dec sym (hv.answers_eq.trans hok)
      (hg.trans (congrArg BitVec.toNat hv.budget_eq.symm)), Run.andThen_ok]
    exact e'

end

/-! ### DEC -/

theorem encode_dec : encode .dec = 0x34000000#32 := by decide

/-- DEC has set BUDGET and opened an empty reader (R184). -/
def decStart (s : State) : State := (s.setBudget s.tree.total).openReader

/-- DEC has begun and `m` symbols, `syms`, are pushed (R184). -/
def decAfter (m : Nat) (syms : List Byte) (s : State) : State :=
  decodedTo syms (s.tree.total.toNat - m) (decStart s)

theorem decAfter_budget (m : Nat) (syms : List Byte) (s : State) :
    (decAfter m syms s).budget = BitVec.ofNat 40 (s.tree.total.toNat - m) := rfl

theorem decAfter_budget_ne_zero {m : Nat} {s : State} (hm : m < s.tree.total.toNat) (syms : List Byte) :
    (decAfter m syms s).budget ≠ 0#40 := by
  have htotal := s.tree.total.isLt
  rw [decAfter_budget, ne_eq, ← BitVec.toNat_inj, BitVec.toNat_ofNat, BitVec.toNat_zero]
  omega

theorem readAway_decAfter (bytes : List Byte) (n : Fin 9) (q : List InItem) (m : Nat) (syms : List Byte) (s : State) :
    readAway bytes n q (decAfter m syms s) = { delivered syms s with
      budget := BitVec.ofNat 40 (s.tree.total.toNat - m)
      brBuf := bytes.getLastD 0#8, brNleft := n, brOpen := true, input := q } := rfl

section
variable {s : State} (ht : s.treeValid = true)
include ht

theorem exec_dec_of_treeValid :
    exec .dec s = finish 0x34000000#32 (decLoop s.tree.total.toNat (decStart s)) := by
  rw [exec, execDec, if_pos ht, encode_dec]
  rfl

variable {bytes : List Byte} {q : List InItem} {m : Nat} {left : List Bool} {syms : List Byte}
  (hin : s.input = asItems bytes ++ q)
include hin

theorem exec_dec_of_readSymbols (hm : m ≤ s.tree.total.toNat) (ha : sinkAccepts m s)
    (hr : s.tree.readSymbols m (bytes.flatMap byteBits) = some (syms, left)) :
    ∃ v, exec .dec s = finish 0x34000000#32 (decLoop (s.tree.total.toNat - m) v) ∧
      readsTo bytes q (decAfter m syms s) left v := by
  have hstart : readsTo bytes q (decStart s) (bytes.flatMap byteBits) (decStart s) := readsTo_start hin
  obtain ⟨v, e, hv⟩ := hstart.decLoop_of_readSymbols (Nat.add_sub_of_le hm) ha hr
  exact ⟨v, (exec_dec_of_treeValid ht).trans (congrArg _ e), hv⟩

variable (hm : m < s.tree.total.toNat)
include hm

/-- While symbols are owed DEC goes on with the next one. -/
theorem exec_dec_next_symbol (ha : sinkAccepts m s)
    (hr : s.tree.readSymbols m (bytes.flatMap byteBits) = some (syms, left)) :
    ∃ v f, exec .dec s = finish 0x34000000#32 ((decodeSymbol .dec v).andThen f) ∧
      readsTo bytes q (decAfter m syms s) left v := by
  obtain ⟨v, e, hv⟩ := exec_dec_of_readSymbols ht hin hm.le ha hr
  obtain ⟨k, hk⟩ := Nat.exists_eq_add_of_lt hm
  rw [show s.tree.total.toNat - m = k + 1 by omega, decLoop] at e
  exact ⟨v, _, e, hv⟩

/-- The next symbol's push is made with the bits before it used up (R184). -/
theorem exec_dec_next_push {more : List Answer} (ha : s.answers = List.replicate m .ok ++ more)
    (hr : s.tree.readSymbols (m + 1) (bytes.flatMap byteBits) = some (syms, left)) (hlen : left.length < 8)
    {n : Fin 9} (hn : n.val = left.length) :
    let u := readAway bytes n q (decAfter m (syms.take m) s)
    u.answers = more ∧
      ∃ f, exec .dec s = finish 0x34000000#32 ((emitSymbol .dec (syms.getD m 0#8) u).andThen f) := by
  obtain ⟨r, init, sym, mid, hroot, hinit, hsym, rfl⟩ := Tree.readSymbols_succ_last hr
  obtain ⟨v, f, e, hv⟩ := exec_dec_next_symbol ht hin hm (sinkAccepts_of_replicate ha le_rfl) hinit
  obtain ⟨w, e', hw⟩ := hv.decodeSymbol_of_readSymbol .dec (decAfter_budget_ne_zero hm init) hroot hsym
  obtain rfl := hw.eq_readAway hlen hn
  obtain rfl := Tree.length_of_readSymbols hinit
  rw [List.take_left, List.getD_append_right _ _ _ _ le_rfl, Nat.sub_self, List.getD_cons_zero]
  have hmore : s.answers.drop init.length = more := by rw [ha, List.drop_left' List.length_replicate]
  exact ⟨hmore, f, by rw [e, e']⟩

end

end Sys2Proof.Machine

open Sys2Proof Sys2Proof.Machine

/-- Settles O37: the loop comes with `m` symbols pushed to its end, to a push not answered OK, or to a node without
the child asked for. -/
theorem decDecodesTheBody : Obligations.DecDecodesTheBody := by
  refine ⟨encode_dec, fun s ht => ⟨fun h0 hroot => ?_, fun bytes q left n hin hlen hn => ⟨fun syms ha hr => ?_,
    fun m syms hm => ⟨fun hr => ⟨fun rest ha => ?_, fun ha => ?_⟩,
      fun r cur before b ha hr hroot hd hc => ?_⟩⟩⟩⟩
  · have hloop := decLoop_eq (s := decStart s) h0
    rw [decodeSymbol_of_no_root (s := decStart s) .dec h0 hroot, Run.andThen_raised] at hloop
    exact (exec_dec_of_treeValid ht).trans (congrArg _ hloop)
  · obtain ⟨v, e, hv⟩ := exec_dec_of_readSymbols ht hin le_rfl ha hr
    obtain rfl := hv.eq_readAway hlen hn
    rw [e, Nat.sub_self, decLoop, readAway_decAfter, Nat.sub_self]
    rfl
  · obtain ⟨hmore, f, e⟩ := exec_dec_next_push ht hin hm ha hr hlen hn
    rw [e, emitSymbol_of_ioerr _ _ hmore]
    rfl
  · obtain ⟨hmore, f, e⟩ := exec_dec_next_push ht hin hm (ha.trans (List.append_nil _).symm) hr hlen hn
    refine ⟨.emit .dec (syms.getD m 0#8), rfl, ?_⟩
    rw [e, emitSymbol_of_nil _ _ hmore, ← hmore]
    rfl
  · obtain ⟨v, f, e, hv⟩ := exec_dec_next_symbol ht hin hm ha hr
    obtain ⟨w, e', hw⟩ := hv.decodeSymbol_of_missing .dec (decAfter_budget_ne_zero hm syms) hroot hd hc
    obtain rfl := hw.eq_readAway hlen hn
    obtain rfl := Tree.length_of_readSymbols hr
    rw [e, e', List.take_length]
    rfl
end

section
/-! PROOFS. A body that ends before TOTAL symbols are decoded (R170, R184). -/

namespace Sys2Proof.Machine

/-- BUDGET[31:0], ERRINFO of CORRUPT_BODY, is the number of symbols still owed (R170, R184). -/
theorem decAfter_budget_low (m : Nat) (syms : List Byte) (s : State) :
    (decAfter m syms s).budget.extractLsb' 0 32 = BitVec.ofNat 32 (s.tree.total.toNat - m) := by
  apply BitVec.eq_of_toNat_eq
  simp only [decAfter_budget, BitVec.extractLsb'_toNat, BitVec.toNat_ofNat, Nat.shiftRight_zero]
  omega

end Sys2Proof.Machine

open Sys2Proof Sys2Proof.Machine

/-- Settles O38: with `m` symbols pushed the walk for the next one comes to the end of the bits. -/
theorem truncatedBodyIsReported : Obligations.TruncatedBodyIsReported := by
  intro s bytes syms q left m r cur ht hm ha hroot hr hd
  have hb := decAfter_budget_ne_zero hm syms
  refine ⟨fun hin => ?_, fun hin => ?_, fun hin => ?_⟩
  · obtain ⟨v, f, e, hv⟩ := exec_dec_next_symbol ht hin hm ha hr
    rw [e, hv.decodeSymbol_of_eos .dec hb hroot hd, decAfter_budget_low]
    rfl
  · obtain ⟨v, f, e, hv⟩ := exec_dec_next_symbol ht hin hm ha hr
    rw [e, hv.decodeSymbol_of_ioerr .dec hb hroot hd]
    rfl
  · obtain ⟨v, f, e, hv⟩ := exec_dec_next_symbol ht (hin.trans (List.append_nil _).symm) hm ha hr
    refine ⟨.walk .dec cur, by simp, rfl, ?_⟩
    rw [e, hv.decodeSymbol_of_nil .dec hb hroot hd]
    rfl
end

section
/-! PROOFS. The one-symbol tree in the decoder: bits 0 are the symbol, a bit 1 has no child to go to (R131, R172). -/

namespace Sys2Proof.Machine

section
variable {hist : Vector Word 256} {sym : Byte}

/-- What TOTAL adds up are the counters of the symbols that occur (R140). -/
theorem Tree.ofHist_total_eq_sum_occurring (hist : Vector Word 256) :
    (Tree.ofHist hist).total.toNat = ((occurring hist).map fun sym => (countOf hist sym).toNat).sum := by
  have hocc : occurring hist = symbols.filter ((· != 0) ∘ fun sym => (countOf hist sym).toNat) :=
    List.filter_congr fun sym _ => by
      rw [Bool.eq_iff_iff]
      simp [countOf, ← BitVec.toNat_inj]
  rw [Tree.ofHist_total_toNat, ← map_countOf_symbols, ← List.sum_filter_bne_zero, List.filter_map, hocc]

variable (h : occurring hist = [sym])
include h

theorem Tree.ofHist_one_total : (Tree.ofHist hist).total.toNat = (countOf hist sym).toNat := by
  rw [Tree.ofHist_total_eq_sum_occurring, h, List.map_singleton, List.sum_singleton]

theorem Tree.ofHist_one_child (b : Bool) :
    ((Tree.ofHist hist).nodeAt 1).child b = if b then none else some 0 := by
  obtain ⟨-, hnode, -, -⟩ := Tree.ofHist_one h
  rw [hnode]
  cases b <;> rfl

theorem Tree.ofHist_one_readSymbols (m : Nat) (bits : List Bool) :
    (Tree.ofHist hist).readSymbols m (List.replicate m false ++ bits) = some (List.replicate m sym, bits) := by
  obtain ⟨hleaf, -, -, hroot⟩ := Tree.ofHist_one h
  induction m with
  | zero => rfl
  | succ m ih =>
    have hsym (rest : List Bool) : (Tree.ofHist hist).readSymbol 1 (false :: rest) = some (sym, rest) := by
      simp [Tree.readSymbol, Tree.ofHist_one_child h, hleaf]
    simp [List.replicate_succ, Tree.readSymbols, hroot, hsym, ih]

end

end Sys2Proof.Machine

open Sys2Proof Sys2Proof.Machine

/-- Settles O39: the walk from the root, the one-child node, has no child for a bit 1. -/
theorem oneChildNodeRejectsBitOne : Obligations.OneChildNodeRejectsBitOne := by
  intro s sym hocc htree ht
  obtain ⟨-, -, -, hroot⟩ := htree ▸ Tree.ofHist_one hocc
  have hchild : (s.tree.nodeAt 1).child true = none := by rw [htree, Tree.ofHist_one_child hocc, if_pos rfl]
  obtain ⟨-, hdecsym⟩ := decsymDecodesOneSymbol
  obtain ⟨-, hdec⟩ := decDecodesTheBody
  refine ⟨fun ho hb => ?_, fun bytes q m left n hin hm ha hbits hlen hn => ?_⟩
  · obtain ⟨-, -, hwalk⟩ := hdecsym s ht ho
    refine ⟨fun n hn hbit => ?_, fun v q hn hin hbit => ?_⟩
    · have hlen : (readerBits (s.setReader s.brBuf n)).length = n.val := length_readerBits _
      have hbits : readerBits s ++ [].flatMap byteBits = true :: readerBits (s.setReader s.brBuf n) := by
        rw [readerBits_of_succ hn.symm, hbit, List.flatMap_nil, List.append_nil]
      obtain ⟨-, hmissing, -⟩ := hwalk 1 [] s.input hroot hb
      exact hmissing [] true _ 1 n rfl hbits (by omega) hlen.symm rfl hchild
    · have hlen : (readerBits (s.setReader v 7)).length = 7 := length_readerBits _
      have hbits : readerBits s ++ [v].flatMap byteBits = true :: readerBits (s.setReader v 7) := by
        rw [readerBits_of_empty hn, List.flatMap_singleton, byteBits_eq_cons v s, hbit, List.nil_append]
      obtain ⟨-, hmissing, -⟩ := hwalk 1 [v] q hroot hb
      exact hmissing [] true _ 1 7 hin hbits (by omega) hlen.symm rfl hchild
  · have htotal : s.tree.total.toNat = (countOf s.hist sym).toNat := by rw [htree, Tree.ofHist_one_total hocc]
    have hreads : s.tree.readSymbols m (bytes.flatMap byteBits) = some (List.replicate m sym, true :: left) := by
      rw [htree, hbits, Tree.ofHist_one_readSymbols hocc]
    obtain ⟨-, hbody⟩ := hdec s ht
    obtain ⟨-, hends⟩ := hbody bytes q left n hin hlen hn
    rw [← htotal] at hm ⊢
    obtain ⟨-, hmissing⟩ := hends m _ hm
    rw [hmissing 1 1 [] true ha hreads hroot rfl hchild, List.take_replicate, Nat.min_self, delivered,
      List.length_replicate]
    rfl
end

section
/-! PROOFS. What NOP and the BitReader commands leave unchanged (R180 to R185, R200). -/

namespace Sys2Proof.Machine

section
variable {s t u : State}

/-! ### The end of a checked run -/

/-- However a command ends, its run's state is changed by the end's own fields at most, and by RESULT where an error
clears it (R213). -/
theorem endsIn_finish_setResult {w : Word} {r : Run Unit} (h : finish w r = .next t) :
    ∃ x, endsIn (r.state.setResult x) t ∧ (clearsResult (opcOf w) = false → x = r.state.result) := by
  rcases finish_cases h with ⟨u, rfl, rfl⟩ | ⟨c, i, u, rfl, rfl⟩ | ⟨p, u, rfl, rfl⟩
  · exact ⟨u.result, ⟨_, _, u.err, u.errcode, u.errinfo, _, _, rfl⟩, fun _ => rfl⟩
  · exact ⟨_, ⟨_, _, _, _, _, _, _, rfl⟩, fun hw => if_neg (Bool.eq_false_iff.1 hw)⟩
  · exact ⟨u.result, ⟨u.busy, u.done, u.err, u.errcode, u.errinfo, u.pending, _, rfl⟩, fun _ => rfl⟩

/-- A precondition's error (R214) leaves the state the command was begun in. -/
theorem Run.checked_state {α : Type} {P : State → Prop} {ok : Bool} {r : Run α} {c : ErrCode} {i : Word}
    (hr : P r.state) (hs : P s) : P (if ok then r else .raised c i s).state := by
  split
  · exact hr
  · exact hs

/-- The end of a command with a precondition (R214): `P` holds of the state its run was left in. -/
theorem endsIn_of_checked {P : State → Prop} {ok : Bool} {r : Run Unit} {w : Word} {c : ErrCode} {i : Word}
    (hr : P r.state) (hs : P s) (h : finish w (if ok then r else .raised c i s) = .next t) :
    ∃ u x, P u ∧ endsIn (u.setResult x) t ∧ (clearsResult (opcOf w) = false → x = u.result) := by
  obtain ⟨x, hx⟩ := endsIn_finish_setResult h
  exact ⟨_, x, Run.checked_state hr hs, hx⟩

/-! ### What the parts of a run change -/

/-- BRBIT's run changes the reader's buffer, the input queue and RESULT only (R181). -/
theorem brbitBody_state (s : State) :
    ∃ b n q x, (brbitBody s).state = { s with brBuf := b, brNleft := n, input := q, result := x } := by
  refine Run.andThen_state
    (R := fun s t => ∃ b n q x, t = { s with brBuf := b, brNleft := n, input := q, result := x })
    ?_ ?_ fun _ u _ => ⟨u.brBuf, u.brNleft, u.input, _, rfl⟩
  · rintro _ _ _ ⟨b, n, q, x, rfl⟩ ⟨b', n', q', x', rfl⟩
    exact ⟨b', n', q', x', rfl⟩
  · obtain ⟨b, n, q, e⟩ := readBit_state .brbit s
    exact ⟨b, n, q, s.result, e⟩

/-- SymbolConsumed changes BUDGET only (R171). -/
theorem symbolConsumed_state (w : Word) (s : State) : ∃ g, (symbolConsumed w s).state = { s with budget := g } := by
  rcases symbolConsumed_cases w s with ⟨-, e⟩ | ⟨-, e⟩ <;> rw [e]
  · exact ⟨s.budget, rfl⟩
  · exact ⟨_, rfl⟩

/-- What a decoding command changes after its checks: what the decoder touches, and RESULT (R183, R184). -/
def decodeTouchesResult (s t : State) : Prop := ∃ u x, decodeTouches s u ∧ t = u.setResult x

theorem decodeTouches_self (s : State) : decodeTouches s s :=
  ⟨s.brBuf, s.brNleft, s.input, s.budget, s.output, s.answers, rfl⟩

theorem decodeTouches.withResult (h : decodeTouches s t) : decodeTouchesResult s t := ⟨t, t.result, h, rfl⟩

theorem decodeTouches.trans_result (h : decodeTouches s u) (h' : decodeTouchesResult u t) :
    decodeTouchesResult s t := by
  obtain ⟨v, x, hv, e⟩ := h'
  exact ⟨v, x, decodeTouches_trans _ _ _ h hv, e⟩

theorem decLoop_touches (n : Nat) (s : State) : decodeTouchesResult s (decLoop n s).state := decLoop_state n s

theorem andThen_afterSymbol_touches (d : DecodeCmd) {r : Run (Option Byte)} (hr : decodeTouches s r.state) :
    decodeTouchesResult s (r.andThen (afterSymbol d)).state := by
  cases r with
  | ok v u =>
    cases d with
    | decsym => exact ⟨u, _, hr, rfl⟩
    | dec => exact hr.trans_result (decLoop_touches _ u)
  | raised c i u => exact hr.withResult
  | held p u => exact hr.withResult

/-! ### The commands -/

/-- The fields NOP or a BitReader command may change, and which of the commands may change which. -/
theorem exec_reader_state {i : Instr} (hi : i ∈ [.nop, .bropen, .brbit, .brsym, .decsym, .dec, .iskip])
    (h : exec i s = .next t) :
    ∃ bo buf n inp bud out ans res,
      endsIn { s with
        brOpen := bo, brBuf := buf, brNleft := n, input := inp, budget := bud, output := out, answers := ans
        result := res } t ∧
      (i ≠ .bropen → i ≠ .dec → bo = s.brOpen) ∧
      (i ∈ [.nop, .bropen, .brbit, .brsym, .iskip] → out = s.output ∧ ans = s.answers) ∧
      (i ∈ [.nop, .bropen, .brsym] → inp = s.input) ∧
      (i ∈ [.nop, .brsym, .iskip] → buf = s.brBuf ∧ n = s.brNleft) ∧
      (i ∈ [.nop, .bropen, .brbit, .iskip] → bud = s.budget) ∧
      (i ∈ [.nop, .bropen, .brsym, .iskip] → res = s.result) := by
  simp only [List.mem_cons, List.not_mem_nil, or_false] at hi
  rcases hi with rfl | rfl | rfl | rfl | rfl | rfl | rfl
  · exact ⟨s.brOpen, s.brBuf, s.brNleft, s.input, s.budget, s.output, s.answers, s.result,
      endsIn_finish (w := encode .nop) (r := .ok () s) (by decide) h, by simp⟩
  · exact ⟨_, _, _, s.input, s.budget, s.output, s.answers, s.result,
      endsIn_finish (w := encode .bropen) (r := .ok () s.openReader) (by decide) h, by simp⟩
  · obtain ⟨_, x, ⟨b, n, q, _, rfl⟩, he, -⟩ := endsIn_of_checked
      (P := fun u => ∃ b n q x, u = { s with brBuf := b, brNleft := n, input := q, result := x })
      (brbitBody_state s) ⟨s.brBuf, s.brNleft, s.input, s.result, rfl⟩ h
    exact ⟨s.brOpen, b, n, q, s.budget, s.output, s.answers, x, he, by simp⟩
  · obtain ⟨_, x, ⟨g, rfl⟩, he, hx⟩ := endsIn_of_checked (P := fun u => ∃ g, u = { s with budget := g })
      (symbolConsumed_state (encode .brsym) s) ⟨s.budget, rfl⟩ h
    obtain rfl : x = s.result := hx (by decide)
    exact ⟨s.brOpen, s.brBuf, s.brNleft, s.input, g, s.output, s.answers, s.result, he, by simp⟩
  · have hself : decodeTouchesResult s s := (decodeTouches_self s).withResult
    obtain ⟨_, x, ⟨_, _, ⟨b, n, q, g, o, a, rfl⟩, rfl⟩, he, -⟩ := endsIn_of_checked (P := decodeTouchesResult s)
      (Run.checked_state (andThen_afterSymbol_touches .decsym (decodeSymbol_state .decsym s)) hself) hself h
    exact ⟨s.brOpen, b, n, q, g, o, a, x, he, by simp⟩
  · have hstart : decodeTouches { s with brOpen := true } (s.setBudget s.tree.total).openReader :=
      ⟨_, _, s.input, _, s.output, s.answers, rfl⟩
    obtain ⟨_, x, ⟨bo, _, _, ⟨b, n, q, g, o, a, rfl⟩, rfl⟩, he, -⟩ := endsIn_of_checked
      (P := fun u => ∃ bo, decodeTouchesResult { s with brOpen := bo } u)
      ⟨true, hstart.trans_result (decLoop_touches _ _)⟩ ⟨s.brOpen, (decodeTouches_self s).withResult⟩ h
    exact ⟨bo, b, n, q, g, o, a, x, he, by simp⟩
  · obtain ⟨q, e⟩ := iskipLoop_state s.input s
    exact ⟨s.brOpen, s.brBuf, s.brNleft, q, s.budget, s.output, s.answers, s.result,
      e ▸ endsIn_finish (w := encode .iskip) (by decide) h, by simp⟩

end

end Sys2Proof.Machine

open Sys2Proof Sys2Proof.Machine

/-- Settles O44, by what a reader command's run may change. -/
theorem frameOfReaderCommands : Obligations.FrameOfReaderCommands := by
  intro s t i hi h
  obtain ⟨bo, buf, n, inp, bud, out, ans, res, ⟨b, d, e, c, x, p, g, rfl⟩, hclauses⟩ := exec_reader_state hi h
  exact ⟨rfl, rfl, rfl, rfl, rfl, rfl, rfl, rfl, rfl, rfl, rfl, rfl, rfl, rfl, rfl, hclauses⟩
end

section
/-! PROOFS. No command writes CTRL or REJ, takes a host move or draws a free value (R25, R201). -/

namespace Sys2Proof.Machine

/-- What no command writes: `rst`, the host's answer plan, CTRL.IE, STATUS.REJ and the host's own side (R201). -/
def controlSide (s : State) : Bool × Option Nat × Bool × Bool × List HostMove × Word × Nat :=
  (s.rst, s.sink, s.ie, s.rej, s.host, s.readData, s.draws)

/-- From `s` to `t` nothing was written that no command writes. -/
def controlKept (s t : State) : Prop := controlSide t = controlSide s

theorem controlKept_iff {s t : State} : controlKept s t ↔ t.rst = s.rst ∧ t.sink = s.sink ∧ t.ie = s.ie ∧
    t.rej = s.rej ∧ t.host = s.host ∧ t.readData = s.readData ∧ t.draws = s.draws := by
  simp only [controlKept, controlSide, Prod.mk.injEq]

section
variable {s t u : State}

theorem controlKept.trans (h : controlKept s t) (h' : controlKept t u) : controlKept s u := Eq.trans h' h

theorem controlKept_of_eq (e : t = u) (h : controlKept s u) : controlKept s t := e ▸ h

theorem controlKept_andThen {α β : Type} {r : Run α} {k : α → State → Run β} (hr : controlKept s r.state)
    (hk : ∀ a u, controlKept u (k a u).state) : controlKept s (r.andThen k).state :=
  Run.andThen_state (R := controlKept) (fun _ _ _ => .trans) hr fun a u _ => hk a u

theorem endsIn.controlKept (h : endsIn s t) : controlKept s t := by
  obtain ⟨b, d, e, c, x, p, g, rfl⟩ := h
  rfl

theorem controlKept_finish {w : Word} {r : Run Unit} (h : finish w r = .next t) : controlKept r.state t := by
  obtain ⟨x, he, -⟩ := endsIn_finish_setResult h
  exact he.controlKept

/-! ### A command from its start -/

/-- Every command is of one of the four families whose frames are known (R94). -/
theorem exec_families (i : Instr) :
    i ∈ [.hclr, .hcnt, .frqout, .frqin] ∨ i ∈ [.build, .gencodes] ∨
      i.opc ∈ [0x20#8, 0x21#8, 0x22#8, 0x23#8, 0x24#8] ∨
      i ∈ [.nop, .bropen, .brbit, .brsym, .decsym, .dec, .iskip] := by
  cases i <;> simp [Instr.opc]

theorem exec_controlKept {i : Instr} (h : exec i s = .next t) : controlKept s t := by
  rcases exec_families i with hi | hi | hi | hi
  · obtain ⟨_, _, _, _, _, _, he, -⟩ := exec_histogram_state hi h
    exact he.controlKept
  · obtain ⟨_, _, _, _, he, -⟩ := exec_tree_state hi h
    exact he.controlKept
  · obtain ⟨r, q, e, ⟨-, _, _, _, _, hr⟩, -⟩ := exec_writer_run hi s
    have hrun : controlKept s r.state := controlKept_of_eq hr rfl
    exact hrun.trans (controlKept_finish (e.symm.trans h))
  · obtain ⟨_, _, _, _, _, _, _, _, he, -⟩ := exec_reader_state hi h
    exact he.controlKept

/-! ### A command from where it waits -/

theorem takeReply_controlKept (p : Progress) (s : State) : controlKept s (takeReply p s).state := by
  rcases takeReply_cases p s with ⟨-, e⟩ | ⟨-, e⟩ | ⟨-, e⟩ <;> exact e ▸ rfl

theorem encLoop_controlKept (q : List InItem) (s : State) : controlKept s (encLoop q s).state := by
  obtain ⟨_, _, _, _, _, e⟩ := encLoop_state q s
  exact controlKept_of_eq e rfl

theorem andThen_afterSymbol_controlKept (d : DecodeCmd) {r : Run (Option Byte)} (hr : decodeTouches s r.state) :
    controlKept s (r.andThen (afterSymbol d)).state := by
  obtain ⟨_, _, ⟨_, _, _, _, _, _, rfl⟩, e⟩ := andThen_afterSymbol_touches d hr
  exact controlKept_of_eq e rfl

theorem resume_controlKept (p : Progress) (s : State) : controlKept s (resume p s).state := by
  cases p with
  | start => rfl
  | hcnt =>
    obtain ⟨_, _, e⟩ := hcntLoop_state s.input s
    exact controlKept_of_eq e rfl
  | frqout k =>
    refine controlKept_andThen (takeReply_controlKept _ s) fun _ u => ?_
    obtain ⟨_, _, e⟩ := frqoutFrom_state (1023 - k.val) u
    exact controlKept_of_eq e rfl
  | frqin k v =>
    obtain ⟨_, _, e⟩ := frqinFrom_state (Config.tableBytes - k.val) v s
    exact controlKept_of_eq e rfl
  | write stream b rest =>
    refine controlKept_andThen (takeReply_controlKept _ s) fun _ u => controlKept_andThen ?_ fun _ v => ?_
    · obtain ⟨_, _, _, _, e⟩ := writeBits_state stream rest u
      exact controlKept_of_eq e rfl
    · split
      · exact encLoop_controlKept _ v
      · rfl
  | close b => exact takeReply_controlKept _ s
  | enc => exact encLoop_controlKept _ s
  | brbit =>
    obtain ⟨_, _, _, _, e⟩ := brbitBody_state s
    exact controlKept_of_eq e rfl
  | walk d cur => exact andThen_afterSymbol_controlKept d (walkTree_state d _ cur s)
  | emit d sym =>
    exact controlKept_andThen (takeReply_controlKept _ s) fun _ u =>
      andThen_afterSymbol_controlKept d (countSymbol_state d sym u)
  | iskip =>
    obtain ⟨_, e⟩ := iskipLoop_state s.input s
    exact controlKept_of_eq e rfl

/-! ### The core's move -/

theorem coreStep_controlKept (h : coreStep s = .next t) : controlKept s t := by
  cases hw : s.pending with
  | none =>
    obtain rfl : s = t := by simpa [coreStep, hw] using h
    rfl
  | some w =>
    rcases coreStep_cases hw with ⟨c, -, -, e⟩ | ⟨i, -, -, e⟩ | ⟨-, e⟩ <;> rw [e] at h
    · exact controlKept_finish (r := .raised c w s) h
    · exact exec_controlKept h
    · exact (resume_controlKept _ s).trans (controlKept_finish h)

end

end Sys2Proof.Machine

open Sys2Proof Sys2Proof.Machine

/-- Settles O48: the core's move refuses a word, begins a command or goes on with one, and none of the three writes
there. -/
theorem noCommandWritesCtrl : Obligations.NoCommandWritesCtrl := fun _ _ h => controlKept_iff.1 (coreStep_controlKept h)
end

section
/-! PROOFS. NOP completes and does nothing else (R200). -/

open Sys2Proof Sys2Proof.Machine

/-- Settles O12: NOP's run is empty, and a word of its row with an operand is refused by the decoder. -/
theorem nopOnlyCompletes : Obligations.NopOnlyCompletes := by
  refine ⟨by decide, by decide, fun s => rfl, fun s w hc hd hrst hb hw hp hf => ?_, fun s => ?_, fun s t h => ?_⟩
  · have hmem : opcOf w ∈ opcodes := by rw [hc]; decide
    have hillegal : ¬operandLegal (opcOf w) (opdOf w).toNat := by
      rw [hc]
      exact fun h0 => hd (BitVec.eq_of_toNat_eq h0)
    rw [step_of_decode_error hrst hb hw hp hf (decode_of_not_operandLegal hmem hillegal), errorEntry, complete, ← hp]
    rfl
  · obtain ⟨-, hcmd⟩ := cmdWriteIsAcceptedOrRefused
    obtain ⟨-, -, hrefused, -⟩ := hcmd s 0x00000000#32
    exact hrefused
  · obtain rfl : complete s = t := by simpa [exec, execNop] using h
    exact Bool.and_true _
end

section
/-! PROOFS. Completion, error entry, the interrupt line and the checks made before a command begins, settled (R213 to
R215, R220). -/

namespace Sys2Proof.Machine

theorem encode_gencodes : encode .gencodes = 0x11000000#32 := by decide

theorem encode_enc : encode .enc = 0x24000000#32 := by decide

section
variable {s : State}

theorem exec_gencodes_of_no_tree (h : s.treeValid = false) : exec .gencodes s =
    .next (errorEntry 0x11000000#32 .noTree 0x11000000#32 s) := by
  rw [exec_gencodes, h, ← encode_gencodes]
  rfl

theorem exec_decsym_of_no_tree (h : s.treeValid = false) : exec .decsym s =
    .next (errorEntry 0x33000000#32 .noTree 0x33000000#32 s) := by
  simp [exec, execDecsym, h, encode_decsym]

theorem exec_decsym_of_closed (ht : s.treeValid = true) (ho : s.brOpen = false) : exec .decsym s =
    .next (errorEntry 0x33000000#32 .notOpen 0x33000000#32 s) := by
  simp [exec, execDecsym, ht, ho, encode_decsym]

theorem exec_dec_of_no_tree (h : s.treeValid = false) : exec .dec s =
    .next (errorEntry 0x34000000#32 .noTree 0x34000000#32 s) := by
  simp [exec, execDec, h, encode_dec]

theorem exec_enc_of_no_codes (h : s.codesValid = false) : exec .enc s =
    .next (errorEntry 0x24000000#32 .noCodes 0x24000000#32 s) := by
  simp [exec, execEnc, h, encode_enc]

theorem exec_encb_of_no_codes (h : s.codesValid = false) (sym : BitVec 8) : exec (.encb sym) s =
    .next (errorEntry (0x23000000#32 ||| sym.setWidth 32) .noCodes (0x23000000#32 ||| sym.setWidth 32) s) := by
  simp [exec, execEncb, h, encode_encb]

end

end Sys2Proof.Machine

open Sys2Proof Sys2Proof.Machine

/-- Settles O8: OPC is the word's bits 31:24. -/
theorem completionAndErrorEntryEffects : Obligations.CompletionAndErrorEntryEffects := by
  refine ⟨fun s => rfl, fun w c info s => ?_⟩
  simp only [errorEntry, clearsResult_iff]
  rfl

/-- Settles O11, check by check. -/
theorem preconditionErrors : Obligations.PreconditionErrors := fun _ =>
  ⟨fun ht => ⟨exec_gencodes_of_no_tree ht, exec_decsym_of_no_tree ht, exec_dec_of_no_tree ht⟩,
    fun hc => ⟨exec_enc_of_no_codes hc, exec_encb_of_no_codes hc⟩,
    fun ho => ⟨exec_brbit_of_closed ho, exec_brsym_of_closed ho, fun ht => exec_decsym_of_closed ht ho⟩⟩

/-- Settles O59: completion sets DONE, and each of the four clears leaves IE or DONE 0. -/
theorem irqIsALevelOfDoneAndEnable : Obligations.IrqIsALevelOfDoneAndEnable := by
  intro s
  refine ⟨rfl, Bool.and_true _, fun _ _ _ => Bool.and_true _, fun v hv => ?_, fun v hv => ?_, fun w hb he => ?_,
    rfl⟩
  · have hwrite : writeReg .status v s = _ := writeStatus_eq v s
    simp [State.irq, hwrite, hv]
  · simp only [writeReg, writeCtrl]
    split
    · rfl
    next hsrst => exact congrArg (· && s.done) (hv.resolve_right hsrst)
  · simp [State.irq, writeReg, writeCmd, hb, he]
end

section
/-! PROOFS. The slots of the NODE array that BUILD fills are the first NNODES (R31, R33). -/

namespace Sys2Proof.Machine

/-- The slots from `k` on are still blank. -/
def Builder.BlankAbove (b : Builder) : Prop := ∀ j : NodeIx, b.k ≤ j.val → b.node[j.val] = Node.blank

theorem Builder.BlankAbove.insert {b : Builder} (h : b.BlankAbove) (nd : Node) : (b.insert nd).BlankAbove := by
  intro j hj
  rw [Builder.insert_k] at hj
  have hne : b.k ≠ j.val := by omega
  simpa [Builder.insert, hne] using h j (by omega)

theorem Builder.BlankAbove.foldl_addLeaf (hist : Vector Word 256) (syms : List Byte) {b : Builder}
    (h : b.BlankAbove) : (syms.foldl (Builder.addLeaf hist) b).BlankAbove := by
  induction syms generalizing b with
  | nil => exact h
  | cons sym syms ih =>
    by_cases h0 : countOf hist sym = 0#32
    · exact ih (Builder.addLeaf_of_zero h0 ▸ h)
    · exact ih (Builder.addLeaf_of_ne_zero h0 ▸ h.insert _)

theorem Builder.BlankAbove.mergeAll (n : Nat) {b : Builder} (h : b.BlankAbove) : (b.mergeAll n).BlankAbove := by
  induction n generalizing b with
  | zero => exact h
  | succ n ih =>
    rw [Builder.mergeAll]
    split
    · exact ih (Builder.BlankAbove.insert (b := { b with queue := _ }) h _)
    · exact h

theorem Builder.mergeAll_k_le (n : Nat) (b : Builder) : (b.mergeAll n).k ≤ b.k + n := by
  induction n generalizing b with
  | zero => exact le_rfl
  | succ n ih =>
    rw [Builder.mergeAll]
    split
    · exact (ih _).trans_eq (by rw [Builder.merge_k]; omega)
    · omega

theorem Builder.blank_blankAbove : Builder.blank.BlankAbove := by
  have e : Builder.blank.node = Vector.replicate 511 Node.blank := rfl
  intro j _
  rw [e, Vector.getElem_replicate]

/-- The builder BUILD ends with, in each of its three cases, leaves the slots it did not fill blank. -/
theorem buildNodes_blankAbove_k_le (hist : Vector Word 256) :
    (buildNodes hist).1.BlankAbove ∧ (buildNodes hist).1.k ≤ 512 := by
  have hleaves : (Builder.leaves hist).BlankAbove := Builder.blank_blankAbove.foldl_addLeaf hist symbols
  obtain ⟨-, hlen, hk, -⟩ := Builder.leaves_made hist
  have hn := occurring_length_le hist
  rcases lt_trichotomy 1 (occurring hist).length with h2 | h1 | h0
  · rw [buildNodes_of_two h2]
    exact ⟨hleaves.mergeAll _, (Builder.mergeAll_k_le _ _).trans (by omega)⟩
  · rw [buildNodes_of_one h1.symm]
    exact ⟨hleaves.insert _, by rw [Builder.addOneChild, Builder.insert_k]; omega⟩
  · have hbuild := buildNodes_of_none (List.length_eq_zero_iff.1 (Nat.lt_one_iff.1 h0))
    exact ⟨by simpa only [hbuild] using hleaves, by simp only [hbuild]; omega⟩

/-- NNODES counts the nodes made, so an internal node lies below it (R33, R140). -/
theorem Tree.ofHist_internal_lt {hist : Vector Word 256} {j : NodeIx} {w : Weight} {l : NodeIx} {r : Option NodeIx}
    (h : (Tree.ofHist hist).nodeAt j = .internal w l r) : j.val < (Tree.ofHist hist).nnodes.toNat := by
  obtain ⟨hblank, hk⟩ := buildNodes_blankAbove_k_le hist
  have hnodes : (Tree.ofHist hist).nnodes.toNat = (buildNodes hist).1.k :=
    (BitVec.toNat_ofNat ..).trans (Nat.mod_eq_of_lt (by omega))
  rw [hnodes]
  by_contra hj
  have hj : (Tree.ofHist hist).nodeAt j = Node.blank := hblank j (by omega)
  cases hj.symm.trans h

end Sys2Proof.Machine
end

section
/-! PROOFS. How a run ends that does not return: its error, the ERRINFO that goes with it, and what the command has
consumed by then (R210 to R213). -/

namespace Sys2Proof.Machine

/-! ### What a command has consumed, and what its error says of it -/

/-- From `c` to `u` a command has taken items and answers off the fronts of its queues, kept the code table and the
tree, and met no error. -/
structure Consumed (c u : State) : Prop where
  err : u.err = false
  input : u.input <:+ c.input
  answers : u.answers <:+ c.answers
  code : u.code = c.code
  tree : u.tree = c.tree

/-- The error `t` ended in is one `i` may raise (R211), and ERRINFO is R212's. -/
def accounted (i : Instr) (c t : State) : Prop :=
  t.errcode ∈ mayRaise i ∧ t.errcode ≠ .badOperand ∧ errorInfoStands i c t

/-- However the run of `i` in its move from `c` ends: a return meets `Q`, a wait leaves ERR 0, and an error has a code
that is not 0x00 and, where `c` meets the invariant, is accounted for. -/
def Run.Accounted {α : Type} (i : Instr) (c : State) (Q : State → Prop) : Run α → Prop
  | .ok _ u => Q u
  | .raised e x u => e ≠ .none ∧ (Inv c → accounted i c (errorEntry (encode i) e x u))
  | .held _ u => u.err = false

/-- ERR is 0: what is asked of a whole command's return. -/
def noErr (u : State) : Prop := u.err = false

section
variable {α β : Type} {i : Instr} {c u : State} {q : List InItem}

theorem Run.Accounted.andThen {Q : State → Prop} {r : Run α} {k : α → State → Run β}
    (hr : r.Accounted i c (Consumed c)) (hk : ∀ a u, r = .ok a u → Consumed c u → (k a u).Accounted i c Q) :
    (r.andThen k).Accounted i c Q := by
  cases r with
  | ok a u => exact hk a u rfl hr
  | raised e x u => exact hr
  | held p u => exact hr

theorem Run.Accounted.ends {r : Run α} (hr : r.Accounted i c (Consumed c)) : r.Accounted i c noErr := by
  cases r with
  | ok a u => exact Consumed.err hr
  | raised e x u => exact hr
  | held p u => exact hr

/-- A move that newly sets ERR raised an error. -/
theorem Run.Accounted.exists_raised {r : Run Unit} (hr : r.Accounted i c noErr) {w : Word} {t : State}
    (h : finish w r = .next t) (ht : t.err = true) : ∃ e x u, e ≠ .none ∧ t = errorEntry w e x u ∧
      (Inv c → accounted i c (errorEntry (encode i) e x u)) := by
  rcases finish_cases h with ⟨u, rfl, rfl⟩ | ⟨e, x, u, rfl, rfl⟩ | ⟨p, u, rfl, rfl⟩
  · exact absurd (show u.err = false from hr) (by simpa using ht)
  · exact ⟨e, x, u, hr.1, rfl, hr.2⟩
  · exact absurd (show u.err = false from hr) (by simpa using ht)

/-! ### What consumes -/

theorem Consumed.start (h : c.err = false) : Consumed c c := ⟨h, List.suffix_rfl, List.suffix_rfl, rfl, rfl⟩

theorem Consumed.setInput (h : Consumed c u) {it : InItem} (hq : u.input = it :: q) : Consumed c (u.setInput q) :=
  { h with input := (List.suffix_cons it q).trans (hq ▸ h.input) }

theorem Consumed.deliver (h : Consumed c u) (bs : List Byte) {a : Answer} {rest : List Answer}
    (ha : u.answers = a :: rest) : Consumed c (u.deliver bs rest) :=
  { h with answers := (List.suffix_cons a rest).trans (ha ▸ h.answers) }

theorem Consumed.emptyWriter (h : Consumed c u) : Consumed c (u.setWriter 0#8 0) := { h with }

theorem Consumed.codeAt (h : Consumed c u) (sym : Byte) : u.codeAt sym = c.codeAt sym := by
  simp only [State.codeAt, h.code]

/-! ### The errors (R212) -/

section
variable {Q : State → Prop}

/-- The item pulled was an IOERR. -/
theorem raised_sourceFailed (hm : .underlyingIo ∈ mayRaise i) (h : u.input <:+ c.input) (hq : u.input = .ioerr :: q) :
    (Run.raised .underlyingIo 0#32 (u.setInput q) : Run α).Accounted i c Q := by
  obtain ⟨before, e⟩ := hq ▸ h
  exact ⟨nofun, fun _ => ⟨hm, nofun, .inl ⟨rfl, before, e.symm⟩⟩⟩

/-- The answer used was an IOERR. -/
theorem raised_sinkFailed (hm : .underlyingIo ∈ mayRaise i) (h : Consumed c u) {rest : List Answer}
    (ha : u.answers = .ioerr :: rest) :
    (Run.raised .underlyingIo 1#32 (u.deliver [] rest) : Run α).Accounted i c Q := by
  obtain ⟨before, e⟩ := ha ▸ h.answers
  exact ⟨nofun, fun _ => ⟨hm, nofun, .inr ⟨rfl, .inr ⟨before, e.symm⟩⟩⟩⟩

/-- A check made before a command begins fails with the command word (R214). -/
theorem checked_accounted {ok : Bool} {r : Run α} {e : ErrCode} (he : e ∈ [.noTree, .noCodes, .notOpen])
    (hm : e ∈ mayRaise i) (hr : ok = true → r.Accounted i c Q) :
    (if ok then r else .raised e (encode i) u).Accounted i c Q := by
  split
  next hok => exact hr hok
  · simp only [List.mem_cons, List.not_mem_nil, or_false] at he
    rcases he with rfl | rfl | rfl <;> exact ⟨nofun, fun _ => ⟨hm, nofun, rfl⟩⟩

end

/-! ### The ports -/

theorem pushByte_accounted (hm : .underlyingIo ∈ mayRaise i) (h : Consumed c u) (p : Progress) (b : Byte) :
    (pushByte p b u).Accounted i c (Consumed c) := by
  rcases pushByte_cases p b u with ⟨-, e⟩ | ⟨rest, ha, e⟩ | ⟨rest, ha, e⟩ <;> rw [e]
  · exact h.err
  · exact h.deliver _ ha
  · exact raised_sinkFailed hm h ha

theorem takeReply_accounted (hm : .underlyingIo ∈ mayRaise i) (h : c.err = false) (p : Progress) :
    (takeReply p c).Accounted i c (Consumed c) := by
  rcases takeReply_cases p c with ⟨-, e⟩ | ⟨-, e⟩ | ⟨hr, e⟩ <;> rw [e]
  · exact h
  · exact { Consumed.start h with }
  · exact ⟨nofun, fun _ => ⟨hm, nofun, .inr ⟨rfl, .inl ⟨hr, rfl⟩⟩⟩⟩

theorem takeReply_ok {p : Progress} {a : Unit} (h : takeReply p c = .ok a u) : u = c.setReply none := by
  rcases takeReply_cases p c with ⟨-, e⟩ | ⟨-, e⟩ | ⟨-, e⟩ <;> rw [e] at h <;> cases h
  rfl

/-! ### The histogram commands -/

theorem hcntLoop_accounted (h : Consumed c u) (hq : u.input = q) : (hcntLoop q u).Accounted .hcnt c noErr := by
  induction q generalizing u with
  | nil => exact h.err
  | cons it q ih =>
    cases it with
    | eos => exact h.err
    | ioerr => exact raised_sourceFailed (by simp [mayRaise]) h.input hq
    | byte b =>
      have h' := h.setInput hq
      obtain ⟨before, e⟩ := hq ▸ h.input
      rcases countByte_cases b (u.setInput q) with ⟨hfull, hc⟩ | ⟨-, hc⟩ <;> rw [hcntLoop, hc]
      · exact ⟨nofun, fun _ => ⟨by simp [mayRaise], nofun, b, rfl, hfull, before, e.symm⟩⟩
      · exact ih { h' with } rfl

theorem frqoutFrom_accounted (n : Nat) (h : Consumed c u) : (frqoutFrom n u).Accounted .frqout c noErr := by
  induction n generalizing u with
  | zero => exact h.err
  | succ n ih => exact (pushByte_accounted (by simp [mayRaise]) h _ _).andThen fun _ _ _ h' => ih h'

theorem storeTableByte_input (k : Fin 1024) (v : Word) (u : State) : (storeTableByte k v u).input = u.input := by
  unfold storeTableByte
  split <;> rfl

theorem storeTableByte_err (k : Fin 1024) (v : Word) (u : State) : (storeTableByte k v u).err = u.err := by
  unfold storeTableByte
  split <;> rfl

/-- FRQIN's loop with `bytes` pulled in this move and `n` bytes to come (R114). -/
theorem frqinFrom_accounted (n : Nat) (v : Word) {bytes : List Byte} (h : u.err = false)
    (hin : c.input = asItems bytes ++ u.input) (hn : tableReceived c + bytes.length + n = 1024) :
    (frqinFrom n v u).Accounted .frqin c noErr := by
  induction n generalizing v u bytes with
  | zero => exact h
  | succ n ih =>
    rw [frqinFrom]
    rcases pull_cases (.frqin ⟨1023 - n, by omega⟩ v) u with ⟨-, hp⟩ | ⟨it, q, hq, hp⟩ <;> rw [hp]
    · exact h
    · cases it with
      | eos =>
        have hinfo : (BitVec.ofNat 32 (1023 - n)).toNat = 1023 - n := by
          rw [BitVec.toNat_ofNat, Nat.mod_eq_of_lt (by omega)]
        exact ⟨nofun, fun _ => ⟨by simp [mayRaise], nofun, bytes, hq ▸ hin, hinfo.trans (by omega),
          hinfo.trans_lt (by omega)⟩⟩
      | ioerr => exact raised_sourceFailed (by simp [mayRaise]) ⟨_, hin.symm⟩ hq
      | byte b =>
        refine ih _ (bytes := bytes ++ [b]) ((storeTableByte_err ..).trans h) ?_ (by simp; omega)
        rw [storeTableByte_input, hin, hq]
        simp [asItems]

/-! ### The BitWriter -/

theorem writeBit_accounted (hm : .underlyingIo ∈ mayRaise i) (h : Consumed c u) (stream : Bool) (rest : List Bool)
    (b : Bool) : (writeBit stream rest b u).Accounted i c (Consumed c) := by
  rcases writeBit_cases stream rest b u with ⟨_, e⟩ | ⟨-, e⟩ <;> rw [e]
  · exact { h with }
  · exact pushByte_accounted hm h.emptyWriter _ _

theorem writeBits_accounted (hm : .underlyingIo ∈ mayRaise i) (h : Consumed c u) (stream : Bool) (bits : List Bool) :
    (writeBits stream bits u).Accounted i c (Consumed c) := by
  induction bits generalizing u with
  | nil => exact h
  | cons b bits ih => exact (writeBit_accounted hm h stream bits b).andThen fun _ _ _ h' => ih h'

theorem closeWriter_accounted (h : Consumed c u) : (closeWriter u).Accounted .bwclose c (Consumed c) := by
  unfold closeWriter
  split
  · exact h
  · exact pushByte_accounted (i := .bwclose) (by simp [mayRaise]) h.emptyWriter _ _

/-- A symbol without a code is ENCB's own, or the last byte pulled (R212). -/
theorem encodeSymbol_accounted (hm : .underlyingIo ∈ mayRaise i) (hm' : .noCode ∈ mayRaise i) (h : Consumed c u)
    {sym : Byte} (hsym : i = .encb sym ∨ .byte sym :: u.input <:+ c.input) (stream : Bool) :
    (encodeSymbol stream sym u).Accounted i c (Consumed c) := by
  unfold encodeSymbol
  split
  next hcode =>
    exact ⟨nofun, fun _ => ⟨hm', nofun, sym, rfl, h.codeAt sym ▸ hcode,
      hsym.imp_right fun ⟨before, e⟩ => ⟨before, e.symm⟩⟩⟩
  · exact writeBits_accounted hm h _ _

theorem encLoop_accounted (h : Consumed c u) (hq : u.input = q) : (encLoop q u).Accounted .enc c noErr := by
  induction q generalizing u with
  | nil => exact h.err
  | cons it q ih =>
    cases it with
    | eos => exact h.err
    | ioerr => exact raised_sourceFailed (by simp [mayRaise]) h.input hq
    | byte b =>
      refine (encodeSymbol_accounted (by simp [mayRaise]) (by simp [mayRaise]) (h.setInput hq)
        (.inr (hq ▸ h.input)) true).andThen fun _ v hv h' => ih h' ?_
      obtain ⟨_, _, _, _, e⟩ := encodeSymbol_state true b (u.setInput q)
      rw [hv] at e
      exact congrArg State.input e

/-! ### The BitReader and the decoder -/

/-- The body ended with a budget left, or its source failed (R170, R212). -/
theorem readBit_accounted (hm : .underlyingIo ∈ mayRaise i) (hm' : .corruptBody ∈ mayRaise i) (h : Consumed c u)
    (p : Progress) : (readBit p u).Accounted i c (Consumed c) := by
  rcases readBit_cases p u with ⟨-, e⟩ | ⟨-, -, e⟩ | ⟨-, -, -, e⟩ | ⟨q, hb, -, -, e⟩ |
    ⟨q, -, -, hq, e⟩ | ⟨v, q, -, -, hq, e⟩ <;> rw [e]
  · exact h
  · exact { h with }
  · exact h.err
  · exact ⟨nofun, fun _ => ⟨hm', nofun, hb, rfl⟩⟩
  · exact raised_sourceFailed hm h.input hq
  · exact { h.setInput hq with }

theorem brbitBody_accounted (h : Consumed c u) : (brbitBody u).Accounted .brbit c noErr :=
  (readBit_accounted (by simp [mayRaise]) (by simp [mayRaise]) h _).andThen fun _ _ _ h' => h'.err

theorem iskipLoop_accounted (h : Consumed c u) (hq : u.input = q) : (iskipLoop q u).Accounted .iskip c noErr := by
  induction q generalizing u with
  | nil => exact h.err
  | cons it q ih =>
    cases it with
    | eos => exact h.err
    | ioerr => exact raised_sourceFailed (by simp [mayRaise]) h.input hq
    | byte b => exact ih (h.setInput hq) rfl

section Decoder
variable (d : DecodeCmd)

/-- The errors of the tree walk are both of the commands' that make it (R211). -/
theorem decoder_mayRaise : ∀ e ∈ [.underlyingIo, .corruptBody, .missingChild], e ∈ mayRaise d.instr := by
  cases d <;> decide

/-- Bit 0 always leads on from an internal node (R31). -/
theorem Node.right_of_child_eq_none {w : Weight} {l : NodeIx} {r : Option NodeIx} {bit : Bool}
    (h : (Node.internal w l r).child bit = none) : r = none := by
  cases bit with
  | false => cases h
  | true => exact h

/-- Under the invariant a symbol is counted against a budget that is left (R172). -/
theorem countSymbol_accounted (sym : Byte) (h : Consumed c u) (hb : Inv c → u.budget ≠ 0#40) :
    (countSymbol d sym u).Accounted d.instr c (Consumed c) := by
  unfold countSymbol
  rcases symbolConsumed_cases d.word u with ⟨h0, e⟩ | ⟨-, e⟩ <;> rw [e]
  · exact ⟨nofun, fun hi => absurd h0 (hb hi)⟩
  · exact { h with }

theorem emitSymbol_accounted (sym : Byte) (h : Consumed c u) (hb : Inv c → u.budget ≠ 0#40) :
    (emitSymbol d sym u).Accounted d.instr c (Consumed c) := by
  refine (pushByte_accounted (decoder_mayRaise d _ (by simp)) h _ _).andThen fun _ v hv h' =>
    countSymbol_accounted d sym h' ?_
  obtain ⟨_, _, e⟩ := pushByte_state (.emit d sym) sym u
  rw [hv] at e
  obtain rfl : v = _ := e
  exact hb

/-- Under the invariant the walk misses a child at a defined node that has none to the right (R172, R212). -/
theorem walkTree_accounted (htree : Inv c → c.treeValid = true) (n : Nat) (cur : NodeIx) (h : Consumed c u)
    (hb : Inv c → u.budget ≠ 0#40) (hn : Inv c → standsInside c cur) :
    (walkTree d n cur u).Accounted d.instr c (Consumed c) := by
  induction n generalizing cur u with
  | zero => exact h.err
  | succ n ih =>
    have hm := decoder_mayRaise d
    refine (readBit_accounted (hm _ (by simp)) (hm _ (by simp)) h _).andThen fun r v hr h' => ?_
    rcases readBit_ok hr with ⟨-, rfl, -⟩ | ⟨bit, rfl, -, hv⟩
    · exact h'
    · have hb' : Inv c → v.budget ≠ 0#40 := hv ▸ hb
      dsimp only
      split
      next hchild =>
        refine ⟨nofun, fun hi => ⟨hm _ (by simp), nofun, .inr ?_⟩⟩
        obtain ⟨w, l, r, hcur⟩ := hn hi
        have hdefined : cur.val < c.tree.nnodes.toNat := by
          rw [hi.tree_hist (htree hi)] at hcur ⊢
          exact Tree.ofHist_internal_lt hcur
        rw [← h'.tree] at hcur hdefined
        obtain rfl : r = none := Node.right_of_child_eq_none (hcur ▸ hchild)
        exact ⟨cur, w, l, rfl, hdefined, hcur⟩
      · split
        · exact emitSymbol_accounted d _ h' hb'
        next w l r hnode => exact ih _ h' hb' fun _ => ⟨w, l, r, h'.tree ▸ hnode⟩

theorem decodeSymbol_accounted (htree : Inv c → c.treeValid = true) (h : Consumed c u) :
    (decodeSymbol d u).Accounted d.instr c (Consumed c) := by
  unfold decodeSymbol
  split
  · exact h
  next hb =>
    split
    next hr => exact ⟨nofun, fun _ => ⟨decoder_mayRaise d _ (by simp), nofun, .inl ⟨hr, rfl⟩⟩⟩
    next r hr =>
      refine walkTree_accounted d htree _ r h (fun _ => hb) fun hi => ?_
      rw [h.tree, hi.tree_hist (htree hi)] at hr
      simpa only [standsInside, hi.tree_hist (htree hi)] using Tree.ofHist_root_internal hr

theorem decLoop_accounted (htree : Inv c → c.treeValid = true) (n : Nat) (h : Consumed c u) :
    (decLoop n u).Accounted .dec c noErr := by
  induction n generalizing u with
  | zero => exact h.err
  | succ n ih => exact (decodeSymbol_accounted .dec htree h).andThen fun _ _ _ h' => ih h'

theorem afterSymbol_accounted (htree : Inv c → c.treeValid = true) (r : Option Byte) (h : Consumed c u) :
    (afterSymbol d r u).Accounted d.instr c noErr := by
  cases d with
  | decsym => exact h.err
  | dec => exact decLoop_accounted htree _ h

end Decoder

/-! ### A command from its start and from where it waits -/

/-- A command's run from its start (R94). -/
theorem exec_accounted (hwf : i.wf = true) (h : c.err = false) (hp : c.progress = .start) :
    ∃ r : Run Unit, exec i c = finish (encode i) r ∧ r.Accounted i c noErr := by
  have hc := Consumed.start h
  cases i with
  | nop => exact ⟨.ok () c, rfl, h⟩
  | hclr => exact ⟨.ok () _, rfl, h⟩
  | hcnt => exact ⟨_, rfl, hcntLoop_accounted (u := c.invalidate) { hc with } rfl⟩
  | frqout => exact ⟨_, rfl, frqoutFrom_accounted _ hc⟩
  | frqin =>
    have hreceived : tableReceived c = 0 := by rw [tableReceived, hp]
    exact ⟨_, rfl, frqinFrom_accounted (bytes := []) _ _ h rfl (by rw [hreceived]; rfl)⟩
  | build => exact ⟨.ok () _, rfl, h⟩
  | gencodes =>
    exact ⟨_, exec_gencodes c, checked_accounted (by simp) (by simp [mayRaise]) fun _ => h⟩
  | bwbit val =>
    exact ⟨_, exec_bwbit_of_wf hwf c, (writeBit_accounted (i := .bwbit val) (by simp [mayRaise]) hc _ _ _).ends⟩
  | bwcode len bits =>
    exact ⟨_, exec_bwcode_of_wf hwf c,
      (writeBits_accounted (i := .bwcode len bits) (by simp [mayRaise]) hc _ _).ends⟩
  | bwclose => exact ⟨_, rfl, (closeWriter_accounted hc).ends⟩
  | encb sym =>
    exact ⟨_, rfl, checked_accounted (by simp) (by simp [mayRaise]) fun _ =>
      (encodeSymbol_accounted (by simp [mayRaise]) (by simp [mayRaise]) hc (.inl rfl) false).ends⟩
  | enc => exact ⟨_, rfl, checked_accounted (by simp) (by simp [mayRaise]) fun _ => encLoop_accounted hc rfl⟩
  | bropen => exact ⟨.ok () _, rfl, h⟩
  | brbit => exact ⟨_, rfl, checked_accounted (by simp) (by simp [mayRaise]) fun _ => brbitBody_accounted hc⟩
  | brsym =>
    refine ⟨_, rfl, checked_accounted (by simp) (by simp [mayRaise]) fun _ => ?_⟩
    rcases symbolConsumed_cases (encode .brsym) c with ⟨-, e⟩ | ⟨-, e⟩ <;> rw [e]
    · exact ⟨nofun, fun _ => ⟨by simp [mayRaise], nofun, rfl⟩⟩
    · exact h
  | decsym =>
    exact ⟨_, rfl, checked_accounted (by simp) (by simp [mayRaise]) fun ht =>
      checked_accounted (by simp) (by simp [mayRaise]) fun _ =>
        (decodeSymbol_accounted .decsym (fun _ => ht) hc).andThen fun r _ _ h' =>
          afterSymbol_accounted .decsym (fun _ => ht) r h'⟩
  | dec =>
    exact ⟨_, rfl, checked_accounted (by simp) (by simp [mayRaise]) fun ht =>
      decLoop_accounted (fun _ => ht) _ (u := (c.setBudget c.tree.total).openReader) { hc with }⟩
  | iskip => exact ⟨_, rfl, iskipLoop_accounted hc rfl⟩

/-- Every place to wait at is some command's own. -/
theorem exists_runsUnder (p : Progress) : ∃ i, runsUnder p i = true := by
  cases p with
  | start => exact ⟨.nop, rfl⟩
  | hcnt => exact ⟨.hcnt, rfl⟩
  | frqout k => exact ⟨.frqout, rfl⟩
  | frqin k v => exact ⟨.frqin, rfl⟩
  | write stream b rest =>
    cases stream with
    | false => exact ⟨.bwbit 0#8, rfl⟩
    | true => exact ⟨.enc, rfl⟩
  | close b => exact ⟨.bwclose, rfl⟩
  | enc => exact ⟨.enc, rfl⟩
  | brbit => exact ⟨.brbit, rfl⟩
  | walk d cur => exact ⟨d.instr, by simp [runsUnder_walk]⟩
  | emit d sym => exact ⟨d.instr, by simp [runsUnder_emit]⟩
  | iskip => exact ⟨.iskip, rfl⟩

/-- Every command that waits in WriteBit's push may meet a failing sink (R211). -/
theorem mayRaise_of_write {stream : Bool} {b : Byte} {rest : List Bool}
    (h : runsUnder (.write stream b rest) i = true) : .underlyingIo ∈ mayRaise i := by
  cases stream with
  | true =>
    obtain rfl : i = .enc := eq_of_beq h
    simp [mayRaise]
  | false =>
    cases i with
    | bwbit | bwcode | encb => simp [mayRaise]
    | _ => cases h

/-- A command's run from where it waits (R37). -/
theorem resume_accounted (hi : runsUnder c.progress i = true) (h : c.err = false) :
    (resume c.progress c).Accounted i c noErr := by
  have hc := Consumed.start h
  cases hp : c.progress with rw [hp] at hi
  | start => exact h
  | hcnt =>
    obtain rfl : i = .hcnt := eq_of_beq hi
    exact hcntLoop_accounted hc rfl
  | frqout k =>
    obtain rfl : i = .frqout := eq_of_beq hi
    exact (takeReply_accounted (by simp [mayRaise]) h _).andThen fun _ _ _ h' => frqoutFrom_accounted _ h'
  | frqin k v =>
    obtain rfl : i = .frqin := eq_of_beq hi
    have hreceived : tableReceived c = k.val := by rw [tableReceived, hp]
    have hleft : Config.tableBytes = 1024 := rfl
    exact frqinFrom_accounted (bytes := []) _ _ h rfl (by rw [hreceived, hleft, List.length_nil]; omega)
  | write stream b rest =>
    have hm := mayRaise_of_write hi
    refine (takeReply_accounted hm h _).andThen fun _ _ _ h' =>
      (writeBits_accounted hm h' stream rest).andThen fun _ _ _ h'' => ?_
    cases stream with
    | false => exact h''.err
    | true =>
      obtain rfl : i = .enc := eq_of_beq hi
      exact encLoop_accounted h'' rfl
  | close b =>
    obtain rfl : i = .bwclose := eq_of_beq hi
    exact (takeReply_accounted (by simp [mayRaise]) h _).ends
  | enc =>
    obtain rfl : i = .enc := eq_of_beq hi
    exact encLoop_accounted hc rfl
  | brbit =>
    obtain rfl : i = .brbit := eq_of_beq hi
    exact brbitBody_accounted hc
  | walk d cur =>
    obtain rfl : i = d.instr := eq_of_beq (runsUnder_walk d cur ▸ hi)
    have hwalk (hinv : Inv c) : Walking c := hinv.walking (by rw [hp]; rfl)
    exact (walkTree_accounted d (fun hinv => (hwalk hinv).tree) _ cur hc (fun hinv => (hwalk hinv).budget)
      fun hinv => hinv.walk_node d cur hp).andThen fun r _ _ h' =>
        afterSymbol_accounted d (fun hinv => (hwalk hinv).tree) r h'
  | emit d sym =>
    obtain rfl : i = d.instr := eq_of_beq (runsUnder_emit d sym ▸ hi)
    have hwalk (hinv : Inv c) : Walking c := hinv.walking (by rw [hp]; rfl)
    refine (takeReply_accounted (decoder_mayRaise d _ (by simp)) h _).andThen fun _ u hu h' =>
      (countSymbol_accounted d sym h' ?_).andThen fun r _ _ h'' =>
        afterSymbol_accounted d (fun hinv => (hwalk hinv).tree) r h''
    obtain rfl := takeReply_ok hu
    exact fun hinv => (hwalk hinv).budget
  | iskip =>
    obtain rfl : i = .iskip := eq_of_beq hi
    exact iskipLoop_accounted hc rfl

end

/-! ### The host's move (R210) -/

section
variable {s : State}

theorem writeReg_err (h : s.err = false) (x : Reg) (v : Word) : (writeReg x v s).err = false := by
  cases x with
  | ctrl => simp only [writeReg, writeCtrl]; split <;> [rfl; exact h]
  | status =>
    have e : writeReg .status v s = _ := writeStatus_eq v s
    rw [e, h]
    rfl
  | cmd => simp only [writeReg, writeCmd]; split <;> exact h
  | budgetLo => simp only [writeReg, writeBudgetLo]; split <;> exact h
  | budgetHi => simp only [writeReg, writeBudgetHi]; split <;> exact h
  | hist i => simp only [writeReg, writeHist]; split <;> exact h
  | _ => exact h

theorem perform_err (h : s.err = false) (a : HostAction) : (perform a s).err = false := by
  have hread (r : Reg) : (readReg r s).err = false := by
    obtain ⟨x, n, e⟩ := readReg_state r s
    rw [e]
    exact h
  cases a with
  | read ad => exact hread _
  | write ad v =>
    simp only [perform, hostWrite]
    split
    · exact h
    · exact writeReg_err h _ v
  | present it => exact h
  | answer x =>
    rcases answerPush_cases x s with ⟨b, -, -, ⟨-, e⟩ | ⟨-, e⟩⟩ | ⟨-, e⟩ <;> rw [perform, e] <;> exact h
  | sinkFail k => exact h
  | wait =>
    simp only [perform]
    split <;> exact hread _
  | assertReset => rfl
  | releaseReset =>
    simp only [perform, releaseReset]
    split
    · rfl
    · exact h

/-- The host sets no ERR. -/
theorem hostStep_err (h : s.err = false) : (hostStep s).err = false := by
  rcases hostStep_cases s with ⟨k, b, -, -, -, -, ⟨-, e⟩ | ⟨-, e⟩⟩ | e <;> rw [e]
  · exact h
  · exact h
  · unfold hostMove
    split
    · exact h
    next m rest _ => exact perform_err (s := { s with host := rest }) h m.act

end

end Sys2Proof.Machine

open Sys2Proof Sys2Proof.Machine

/-- Settles O9: the host sets no ERR, and the core's move sets it by the error entry of what its run raised. -/
theorem errIsSetByErrorEntryOnly : Obligations.ErrIsSetByErrorEntryOnly := by
  intro s t hs herr ht
  cases hc : coreTurn s with
  | false =>
    obtain rfl : hostStep s = t := by simpa [step_of_hostTurn hc] using hs
    exact absurd (hostStep_err herr) (by simp [ht])
  | true =>
    obtain ⟨-, hb, ⟨w, hw⟩, -⟩ := coreTurn_true hc
    rw [step_of_coreTurn hc] at hs
    rcases coreStep_cases hw with ⟨c, hne, -, e⟩ | ⟨i, hp, hd, e⟩ | ⟨-, e⟩ <;> rw [e] at hs
    · obtain rfl : errorEntry w c w s = t := by simpa using hs
      exact ⟨w, c, w, s, hb, hw, hne, rfl⟩
    · obtain ⟨rfl, hwf⟩ := decode_eq_ok_iff.1 hd
      obtain ⟨r, hr, hacc⟩ := exec_accounted hwf herr hp
      obtain ⟨c, x, u, hne, rfl, -⟩ := hacc.exists_raised (hr ▸ hs) ht
      exact ⟨_, c, x, u, hb, hw, hne, rfl⟩
    · obtain ⟨i, hi⟩ := exists_runsUnder s.progress
      obtain ⟨c, x, u, hne, rfl, -⟩ := (resume_accounted hi herr).exists_raised hs ht
      exact ⟨w, c, x, u, hb, hw, hne, rfl⟩

/-- Settles O10: what a command's run raises is accounted for, from its start and from where it waits. -/
theorem errorCodesAndInfoOfEachCommand : Obligations.ErrorCodesAndInfoOfEachCommand := by
  intro s t i hinv hb hw hwf hs ht
  have herr := hinv.busy_noErr hb
  have hd := decodeOfEncode i hwf
  suffices h : ∃ r : Run Unit, coreStep s = finish (encode i) r ∧ r.Accounted i s noErr by
    obtain ⟨r, hr, hacc⟩ := h
    obtain ⟨e, x, u, -, rfl, haccounted⟩ := hacc.exists_raised (hr ▸ hs) ht
    exact haccounted hinv
  by_cases hp : s.progress = .start
  · have hexec : coreStep s = exec i s := by simp [coreStep, hw, hp, hd]
    rw [hexec]
    exact exec_accounted hwf herr hp
  · obtain ⟨j, hj, hown⟩ := hinv.waits_own _ hw hp
    obtain rfl : j = i := Except.ok.inj (hj.symm.trans hd)
    exact ⟨_, coreStep_of_waiting hw hp, resume_accounted hown herr⟩
end

section
/-! PROOFS. Reset as a level, held until it is released, and what becomes of the command it abandons (R240 to
R242). -/

namespace Sys2Proof.Machine

/-- Only its release lowers `rst` (R240). -/
theorem perform_rst_of_asserted {a : HostAction} {s : State} (ha : a ≠ .releaseReset) (h : s.rst = true) :
    (perform a s).rst = true := by
  have hread (r : Reg) : (readReg r s).rst = true := by
    obtain ⟨x, n, e⟩ := readReg_state r s
    rw [e]
    exact h
  cases a with
  | read addr => exact hread _
  | write addr v => simp [perform, hostWrite, h]
  | present it => exact h
  | answer x => rcases answerPush_cases x s with ⟨b, -, -, ⟨-, e⟩ | ⟨-, e⟩⟩ | ⟨-, e⟩ <;> simp [perform, e, h]
  | sinkFail k => exact h
  | wait =>
    simp only [perform]
    split <;> exact hread _
  | assertReset => rfl
  | releaseReset => exact absurd rfl ha

/-- While `rst` is asserted, and on its release, every move of the host finds and leaves every element at its reset
value (R240). -/
theorem Inv.perform_held {s : State} (h : Inv s) (hr : s.rst = true) (a : HostAction) :
    Machine.perform a s = hardReset (Machine.perform a s) := by
  by_cases ha : a = .releaseReset
  · subst ha
    simp only [Machine.perform, Machine.releaseReset, hr, if_true]
    rfl
  · exact (h.perform a).rst_held (perform_rst_of_asserted ha hr)

theorem Inv.hostMove_held {s : State} (h : Inv s) (hr : s.rst = true) :
    Machine.hostMove s = hardReset (Machine.hostMove s) := by
  unfold Machine.hostMove
  split
  · exact h.rst_held hr
  next m rest _ =>
    exact Inv.perform_held (s := { s with host := rest }) (h.hostSide _ _ _ _ rest _ _ h.push_answers) hr m.act

/-- While `rst` is asserted the core does not move (R240). -/
theorem coreTurn_of_rst {s : State} (hr : s.rst = true) : coreTurn s = false := by simp [coreTurn, coreReady, hr]

/-- A step from an asserted `rst` is a move of the host, no push being on offer, and leaves every element at its
reset value (R240). -/
theorem Inv.step_held {s t : State} (h : Inv s) (hr : s.rst = true) (hs : step s = .next t) : t = hardReset t := by
  have hno : offeredByte s = none := by simp [offeredByte, h.start_of_rst hr]
  obtain rfl : Machine.hostMove s = t := by
    simpa [step_of_hostTurn (coreTurn_of_rst hr), hostStep_of_no_sink (.inr (.inl hno))] using hs
  exact h.hostMove_held hr

/-- The two resets the host has in hand do the same but for the level of `rst` (R240, R241). -/
theorem perform_reset {a : HostAction} {s : State}
    (ha : a = .assertReset ∨ s.rst = false ∧ ∃ v : Word, v.getLsbD 1 = true ∧ a = .write (wordAddr 0x004#16) v) :
    perform a s = { hardReset s with rst := a == .assertReset } := by
  rcases ha with rfl | ⟨hr, v, hv, rfl⟩
  · rfl
  · have hreg : Reg.ofAddr (wordAddr 0x004#16) = .ctrl := by decide
    have hsoft : perform (.write (wordAddr 0x004#16) v) s = hardReset s := by
      simp [perform, hostWrite, hr, hreg, writeReg, writeCtrl, hv]
    rw [hsoft, hardReset, hr]
    rfl

end Sys2Proof.Machine

open Sys2Proof Sys2Proof.Machine

/-- Settles O60: the invariant has every element at its reset value while `rst` is asserted, and a reset keeps the
bytes delivered but not the answer to the push on offer. -/
theorem resetHoldsAndAbandons : Obligations.ResetHoldsAndAbandons := by
  intro s resetState
  refine ⟨rfl, fun hr => ⟨?_, fun addr v => ?_, coreTurn_of_rst hr, fun hi => ⟨?_, fun t => hi.step_held hr⟩⟩,
    fun w => ?_, fun a ha => ⟨⟨perform_reset ha, ?_⟩, fun b ho hn => ⟨?_, ?_⟩⟩⟩
  · simp only [perform, releaseReset, hr, if_true]
    rfl
  · simp [perform, hostWrite, hr]
  · exact hr ▸ hi.rst_held hr
  · have hreg : Reg.ofAddr (wordAddr 0x014#16) = .cmd := by decide
    simp [perform, hostWrite, hreg, writeReg, writeCmd, resetState, State.reset]
  · rw [perform_reset ha]
    rfl
  · have hok : perform (.answer .ok) s = { s with reply := some .ok, output := s.output ++ [b] } := answerPush_ok ho hn
    rw [hok]
    exact perform_reset ha
  · have hioerr : perform (.answer .ioerr) s = { s with reply := some .ioerr } := answerPush_ioerr ho hn
    rw [hioerr]
    exact perform_reset ha
end
